-- ==== Sys2Proof/Config.lean ====
section
/-! DEFINITION. What an implementation fixes (spec/00_scope.md R7 to R10). -/

namespace Sys2Proof

/-- A stack's maximum depth: a natural number, 0 included, or unbounded (00_scope.md R10). -/
inductive Capacity where
  | finite (depth : Nat)
  | unbounded
deriving DecidableEq, Repr

namespace Config

/-- `SEGMENT_SIZE`: cells per segment, fixed (00_scope.md R7). -/
abbrev segmentSize : Nat := 1024

/-- The largest legal `SEGMENT_COUNT` (00_scope.md R8). -/
abbrev maxSegments : Nat := 16

/-- `SEGMENT_COUNT` of the machine that `State.reset` constructs.
DESIGN CHOICE (unsafe; notes/assumptions/4): the spec leaves it to the caller of `construct`. -/
def segmentCount : Nat := 16

/-- `DS_DEPTH` of the machine that `State.reset` constructs: the spec's default, unbounded (00_scope.md R10; notes/assumptions/5). -/
def dsDepth : Capacity := .unbounded

/-- `RS_DEPTH` of the machine that `State.reset` constructs: the spec's default, unbounded (00_scope.md R10; notes/assumptions/5). -/
def rsDepth : Capacity := .unbounded

end Config

end Sys2Proof
end

