-- ==== Sys2Proof/Word.lean ====
section
/-! DEFINITION. The value domain of the engine: Words, Addresses, strings (spec/10_state.md R15 to R20). -/

namespace Sys2Proof

/-- A character string: a finite sequence of opaque characters (10_state.md R18; DESIGN CHOICE, notes/assumptions/2). -/
abbrev Str := List Char

/-- A Word, what one cell or one stack entry holds (10_state.md R15 to R18).
`ins op none` and `ins op (some 0)` are distinct (R16). -/
inductive Word where
  /-- `Instruction{opcode: u8, operand: Option<u16>}`. -/
  | ins (op : BitVec 8) (operand : Option (BitVec 16))
  /-- `Literal{value: i64}`, the 64-bit two's-complement pattern (R17). -/
  | lit (value : BitVec 64)
  /-- `Text{value: string}` (R18). -/
  | txt (value : Str)
deriving DecidableEq, Repr

/-- `Ins(0x00)`, the zero Instruction (NOP, no operand) that every cell holds at construction (20_memory.md R52). -/
abbrev Word.zero : Word := .ins 0 none

/-- An Address: an ordered pair (segment u8, offset u16), with no behaviour of its own (10_state.md R20). -/
structure Address where
  segment : BitVec 8
  offset : BitVec 16
deriving DecidableEq, Repr

/-- The address (0,0), where every run starts (20_memory.md R56). -/
abbrev Address.origin : Address := ⟨0, 0⟩

/-- An error returned to a host-side caller (60_exceptions.md R177). It never comes from a step and changes no state. -/
inductive HostError where
  | tooMuchMemoryRequested
  | outOfBounds
  | notLoading
  | busy
  | malformedAddress
  | unknownMnemonic
  | invalidOperand
  | noOperand
deriving DecidableEq, Repr

end Sys2Proof
end

