-- ==== Sys2Proof/Syntax.lean ====
section
/-! DEFINITION. The instructions: one constructor per row of spec/opcode_table.json (spec/30_encoding.md R82).

Every constructor carries the operand field of its cell, `Option (BitVec 16)`. Outside
REQ = STORE, FETCH, IF, CALL, SOUT the field is ignored (30_encoding.md R87); it is kept so that decoding loses nothing. -/

namespace Sys2Proof

/-- The two kinds of Word that execute as opcode 0x14 (30_encoding.md R86, 46_io.md R159). -/
inductive StrlitForm where
  /-- An Instruction word with opcode 0x14; its operand, if any, is not read. -/
  | marker (operand : Option (BitVec 16))
  /-- A Text word, which carries opcode 0x14 implicitly. -/
  | text (payload : Str)
deriving DecidableEq, Repr

/-- The 22 instructions of the opcode map (30_encoding.md R82), in opcode order. -/
inductive Instr where
  | nop (operand : Option (BitVec 16))
  | store (operand : Option (BitVec 16))
  | add (operand : Option (BitVec 16))
  | sub (operand : Option (BitVec 16))
  | rstore (operand : Option (BitVec 16))
  | fetch (operand : Option (BitVec 16))
  | and (operand : Option (BitVec 16))
  | drop (operand : Option (BitVec 16))
  | dup (operand : Option (BitVec 16))
  | or (operand : Option (BitVec 16))
  | copyOver (operand : Option (BitVec 16))
  | rfetch (operand : Option (BitVec 16))
  | swap (operand : Option (BitVec 16))
  | xor (operand : Option (BitVec 16))
  | branchIf (operand : Option (BitVec 16))
  | call (operand : Option (BitVec 16))
  | exit (operand : Option (BitVec 16))
  | lit (operand : Option (BitVec 16))
  | cout (operand : Option (BitVec 16))
  | cin (operand : Option (BitVec 16))
  | strlit (form : StrlitForm)
  | sout (operand : Option (BitVec 16))
deriving DecidableEq, Repr

end Sys2Proof
end

