-- ==== Sys2Proof/WellFormed.lean ====
section
/-! DEFINITION. Which instructions a decoder may hand to the machine (spec/30_encoding.md R83, R88). -/

namespace Sys2Proof

/-- An instruction is well formed when an opcode of REQ = STORE, FETCH, IF, CALL, SOUT carries its operand
(30_encoding.md R83, R88, and the check of `encode_instruction`, R90). Every other form is well formed (R87). -/
def WellFormed (i : Instr) : Bool :=
  match i with
  | .store operand => operand.isSome
  | .fetch operand => operand.isSome
  | .branchIf operand => operand.isSome
  | .call operand => operand.isSome
  | .sout operand => operand.isSome
  | .nop _ => true
  | .add _ => true
  | .sub _ => true
  | .rstore _ => true
  | .and _ => true
  | .drop _ => true
  | .dup _ => true
  | .or _ => true
  | .copyOver _ => true
  | .rfetch _ => true
  | .swap _ => true
  | .xor _ => true
  | .exit _ => true
  | .lit _ => true
  | .cout _ => true
  | .cin _ => true
  | .strlit _ => true

end Sys2Proof
end

