-- ==== Sys2Proof/Decode.lean ====
section
/-! DEFINITION. The word codec (spec/30_encoding.md): canonical form, decoder, encoder, and the 32-bit image. -/

namespace Sys2Proof

/-! ## Opcode and operand of a Word -/

/-- `REQ`, the opcodes that require an operand (30_encoding.md R83). -/
def requiresOperand (op : BitVec 8) : Bool :=
  op == 0x01 || op == 0x05 || op == 0x0E || op == 0x0F || op == 0x15

/-- `decode_opcode` (30_encoding.md R94). -/
def decodeOpcode (w : Word) : Option (BitVec 8) :=
  match w with
  | .ins op _ => some op
  | .lit _ => none
  | .txt _ => some 0x14

/-- `decode_operand` (30_encoding.md R95). -/
def decodeOperand (w : Word) : Except HostError (BitVec 16) :=
  match w with
  | .ins _ (some u) => .ok u
  | .ins _ none => .error .noOperand
  | .lit _ => .error .noOperand
  | .txt _ => .error .noOperand

/-! ## Decoding a cell -/

/-- Why a cell does not decode (40_fetch_decode_execute.md R116). -/
inductive DecodeError where
  /-- A Literal cell, or an opcode above 0x15 (30_encoding.md R84, R85). -/
  | unknownOpcode
  /-- An opcode of REQ in a word without an operand (30_encoding.md R88). -/
  | noOperand
deriving DecidableEq, Repr

/-- The check that an opcode of REQ carries its operand (40_fetch_decode_execute.md R116). -/
def withRequired (operand : Option (BitVec 16)) (i : Instr) : Except DecodeError Instr :=
  if operand.isSome then .ok i else .error .noOperand

/-- The instruction of an opcode and its operand field (30_encoding.md R82, R84, R88). -/
def decodeIns (op : BitVec 8) (operand : Option (BitVec 16)) : Except DecodeError Instr :=
  match op.toNat with
  | 0x00 => .ok (.nop operand)
  | 0x01 => withRequired operand (.store operand)
  | 0x02 => .ok (.add operand)
  | 0x03 => .ok (.sub operand)
  | 0x04 => .ok (.rstore operand)
  | 0x05 => withRequired operand (.fetch operand)
  | 0x06 => .ok (.and operand)
  | 0x07 => .ok (.drop operand)
  | 0x08 => .ok (.dup operand)
  | 0x09 => .ok (.or operand)
  | 0x0A => .ok (.copyOver operand)
  | 0x0B => .ok (.rfetch operand)
  | 0x0C => .ok (.swap operand)
  | 0x0D => .ok (.xor operand)
  | 0x0E => withRequired operand (.branchIf operand)
  | 0x0F => withRequired operand (.call operand)
  | 0x10 => .ok (.exit operand)
  | 0x11 => .ok (.lit operand)
  | 0x12 => .ok (.cout operand)
  | 0x13 => .ok (.cin operand)
  | 0x14 => .ok (.strlit (.marker operand))
  | 0x15 => withRequired operand (.sout operand)
  | _ => .error .unknownOpcode

/-- Decode of the cell at the cursor, total on every Word (40_fetch_decode_execute.md R116; 30_encoding.md R85, R86). -/
def decode (w : Word) : Except DecodeError Instr :=
  match w with
  | .ins op operand => decodeIns op operand
  | .lit _ => .error .unknownOpcode
  | .txt s => .ok (.strlit (.text s))

/-! ## Encoding an instruction -/

/-- The opcode of an instruction (30_encoding.md R82). -/
def Instr.opcode (i : Instr) : BitVec 8 :=
  match i with
  | .nop _ => 0x00
  | .store _ => 0x01
  | .add _ => 0x02
  | .sub _ => 0x03
  | .rstore _ => 0x04
  | .fetch _ => 0x05
  | .and _ => 0x06
  | .drop _ => 0x07
  | .dup _ => 0x08
  | .or _ => 0x09
  | .copyOver _ => 0x0A
  | .rfetch _ => 0x0B
  | .swap _ => 0x0C
  | .xor _ => 0x0D
  | .branchIf _ => 0x0E
  | .call _ => 0x0F
  | .exit _ => 0x10
  | .lit _ => 0x11
  | .cout _ => 0x12
  | .cin _ => 0x13
  | .strlit _ => 0x14
  | .sout _ => 0x15

/-- The Word of an instruction: its one cell (30_encoding.md R82). LIT's inline cell is a Word of its own and is
no part of the LIT's encoding (R79). -/
def encode (i : Instr) : Word :=
  match i with
  | .nop u => .ins 0x00 u
  | .store u => .ins 0x01 u
  | .add u => .ins 0x02 u
  | .sub u => .ins 0x03 u
  | .rstore u => .ins 0x04 u
  | .fetch u => .ins 0x05 u
  | .and u => .ins 0x06 u
  | .drop u => .ins 0x07 u
  | .dup u => .ins 0x08 u
  | .or u => .ins 0x09 u
  | .copyOver u => .ins 0x0A u
  | .rfetch u => .ins 0x0B u
  | .swap u => .ins 0x0C u
  | .xor u => .ins 0x0D u
  | .branchIf u => .ins 0x0E u
  | .call u => .ins 0x0F u
  | .exit u => .ins 0x10 u
  | .lit u => .ins 0x11 u
  | .cout u => .ins 0x12 u
  | .cin u => .ins 0x13 u
  | .strlit (.marker u) => .ins 0x14 u
  | .strlit (.text s) => .txt s
  | .sout u => .ins 0x15 u

/-- The cells an instruction takes in memory: 2 for LIT, else 1 (30_encoding.md R79). -/
def Instr.cells (i : Instr) : Nat :=
  match i with
  | .lit _ => 2
  | _ => 1

/-- `encode_instruction` (30_encoding.md R90). The operand is any integer; every opcode is accepted. -/
def encodeInstruction (op : BitVec 8) (operand : Option Int) : Except HostError Word :=
  match operand with
  | some u => if 0 ≤ u ∧ u ≤ 0xFFFF then .ok (.ins op (some (BitVec.ofInt 16 u))) else .error .invalidOperand
  | none => if requiresOperand op then .error .invalidOperand else .ok (.ins op none)

/-- `encode_text` (30_encoding.md R91). -/
def encodeText (s : Str) : Word := .txt s

/-! ## The 32-bit image and the canonical form -/

/-- `image`: opcode in bits 31:24, operand (0 when absent) in bits 23:8, pad 0 in bits 7:0 (30_encoding.md R70). -/
def image (op : BitVec 8) (operand : Option (BitVec 16)) : BitVec 32 :=
  op ++ operand.getD 0 ++ (0 : BitVec 8)

/-- The cell that a 32-bit image stands for. The image has no presence bit (30_encoding.md R69): the operand is read as
present when the opcode is in REQ or the field is not zero, and the pad is not looked at (R70, R89).
DESIGN CHOICE (notes/assumptions/12). -/
def wordOfImage (b : BitVec 32) : Word :=
  let op := b.extractLsb' 24 8
  let u := b.extractLsb' 8 16
  .ins op (if requiresOperand op || u != 0 then some u else none)

/-- The instruction of a row's bits, numbered as spec/opcode_table.json numbers them (30_encoding.md R70). -/
def decodeTableWord (nbits w : Nat) : Option Instr :=
  match decode (wordOfImage (BitVec.ofNat 32 (w % 2 ^ nbits))) with
  | .ok i => some i
  | .error _ => none

/-- One upper-case hexadecimal digit (00_scope.md R12, 30_encoding.md R73). -/
def hexDigit (n : Nat) : Char :=
  if n < 10 then Char.ofNat (48 + n) else Char.ofNat (55 + n)

/-- `hexN(x)`: N digits, most significant first (00_scope.md R12). -/
def hexN : Nat → Nat → Str
  | 0, _ => []
  | k + 1, x => hexDigit (x / 16 ^ k % 16) :: hexN k x

/-- `canon(w)`, the canonical form, the source's `canonical_hex` (30_encoding.md R71, R72, R73, R93). -/
def canon (w : Word) : Str :=
  match w with
  | .ins op operand => '0' :: 'x' :: (hexN 2 op.toNat ++ hexN 4 (operand.getD 0).toNat ++ ['0', '0'])
  | .lit v => '0' :: 'x' :: hexN 8 (v.toNat % 2 ^ 32)
  | .txt s => '0' :: 'x' :: '1' :: '4' :: s

/-- `word_eq`, equality of canonical forms; no instruction uses it (30_encoding.md R75). -/
def wordEq (w₁ w₂ : Word) : Bool := canon w₁ == canon w₂

end Sys2Proof
end

