-- ==== Sys2Proof/Machine/State.lean ====
section
/-! DEFINITION. The architectural state (spec/10_state.md) and its value after construction (R39). -/

namespace Sys2Proof.Machine

/-- PHASE (10_state.md R33). -/
inductive Phase where
  | loading
  | running
  | halted
  | faulted
deriving DecidableEq, Repr

/-- The engine faults, in the order of their codes 1 to 6 (60_exceptions.md R161, R168). -/
inductive FaultKind where
  | stackUnderflow
  | outOfBounds
  | noOperand
  | unknownOpcode
  | operandType
  | stackOverflow
deriving DecidableEq, Repr

/-- The fault record (10_state.md R34): `cursor` is the rule's field `at`. -/
structure FaultRecord where
  kind : FaultKind
  opcode : Option (BitVec 8)
  cursor : Address
deriving DecidableEq, Repr

/-- MEM: the cells that do not hold `Ins(0x00)`, by flat address (20_memory.md R45), addresses strictly rising.
An unlisted cell holds `Ins(0x00)` (R52; notes/assumptions/1). -/
abbrev Memory := List (Nat × Word)

/-- The state of one engine instance (10_state.md, the state vector; INVENTORY.md lists every field with its rule). -/
structure State where
  /-- SEGCOUNT (R32). -/
  segCount : Nat
  /-- DS_DEPTH (00_scope.md R10). -/
  dsDepth : Capacity
  /-- RS_DEPTH (00_scope.md R10). -/
  rsDepth : Capacity
  /-- MEM (R29). -/
  mem : Memory
  /-- PC, the Location Cursor (R22). -/
  pc : Address
  /-- DS, the Data Stack, top first (R26; notes/assumptions/3). -/
  ds : List Word
  /-- RS, the Return Stack, top first (R27; notes/assumptions/3). -/
  rs : List Word
  /-- RUNNING (R31). -/
  running : Bool
  /-- PHASE (R33). -/
  phase : Phase
  /-- FAULT (R34); `none` is 'no record'. -/
  fault : Option FaultRecord
  /-- FILLCNT (R35). -/
  fillCnt : Nat
  /-- INWAIT (R36). -/
  inWait : Bool
  /-- OUT, oldest string first (R37). -/
  out : List Str
  /-- IN, the tokens supplied and not yet read, oldest first (46_io.md R154; notes/assumptions/8). -/
  input : List Str
deriving DecidableEq, Repr

/-- The state after construction (10_state.md R39) for given parameters. -/
def State.constructed (segCount : Nat) (dsDepth rsDepth : Capacity) : State where
  segCount := segCount
  dsDepth := dsDepth
  rsDepth := rsDepth
  mem := []
  pc := Address.origin
  ds := []
  rs := []
  running := false
  phase := .loading
  fault := none
  fillCnt := 0
  inWait := false
  out := []
  input := []

/-- The machine right after reset, which is construction (70_reset_and_hazards.md R186), with the parameters of Config. -/
def State.reset : State := State.constructed Config.segmentCount Config.dsDepth Config.rsDepth

/-- The reasons for which the MODEL stops. The engine's own faults are not here: their entry is a next state
(60_exceptions.md R170; notes/assumptions/6). -/
inductive Fault where
  /-- Raised by `step` when a running machine's cursor names no cell, a state the spec says is never held
  (10_state.md R22). Safe: no run reaches it (notes/assumptions/11). -/
  | cursorOutsideMemory
deriving DecidableEq, Repr

/-- The reasons for which the model has no meaning to give. -/
inductive Refusal where
  /-- An instruction whose arm in `exec` has no meaning yet. Safe. No arm raises it. -/
  | notModelled (mnemonic : String)
deriving DecidableEq, Repr

/-- The outcome of one step. -/
abbrev Result := Host.Outcome State Fault Refusal

end Sys2Proof.Machine
end

