-- ==== Sys2Proof/Machine/Ops.lean ====
section
/-! DEFINITION. The named operations over addresses, memory, cursor, stacks and collaborators
(spec/00_scope.md R13, 20_memory.md, 40_fetch_decode_execute.md) and fault entry (60_exceptions.md R170). -/

namespace Sys2Proof.Machine

/-! ## Addresses -/

/-- CAPACITY in cells (00_scope.md R8). -/
def capacity (segCount : Nat) : Nat := segCount * Config.segmentSize

/-- Validity of an Address (20_memory.md R46). -/
abbrev valid (segCount : Nat) (a : Address) : Prop :=
  a.segment.toNat < segCount ∧ a.offset.toNat < Config.segmentSize

/-- `to_flat` (20_memory.md R47). -/
def toFlat (a : Address) : Nat := a.segment.toNat * Config.segmentSize + a.offset.toNat

/-- The Address with flat number `n`, for `n < 262144` (20_memory.md R45). -/
def flatAddress (n : Nat) : Address :=
  ⟨BitVec.ofNat 8 (n / Config.segmentSize), BitVec.ofNat 16 (n % Config.segmentSize)⟩

/-- `from_flat` (20_memory.md R45). -/
def fromFlat (n : Nat) : Except HostError Address :=
  if n < 256 * Config.segmentSize then .ok (flatAddress n) else .error .outOfBounds

/-- `increment` (40_fetch_decode_execute.md R108). -/
def increment (segCount : Nat) (a : Address) : Address :=
  if a.offset.toNat + 1 = Config.segmentSize then
    if a.segment.toNat + 1 = segCount then ⟨0, 0⟩ else ⟨a.segment + 1, 0⟩
  else ⟨a.segment, a.offset + 1⟩

/-- `lookahead`: the advance rule of `increment`, without a write (40_fetch_decode_execute.md R109). -/
def lookahead (segCount : Nat) (a : Address) : Address := increment segCount a

/-! ## Memory by flat address -/

/-- What a cell that is not listed holds (20_memory.md R52). -/
def blankCell : Word := Word.zero

/-- The canonical form: addresses strictly rising, and no listed cell holds what an unlisted one reads as. -/
abbrev Memory.wf (m : Memory) : Prop :=
  m.Pairwise (fun e e' => e.1 < e'.1) ∧ ∀ e ∈ m, e.2 ≠ blankCell

/-- The Word in cell `k`. -/
def Memory.read : Memory → Nat → Word
  | [], _ => blankCell
  | e :: m, k => if e.1 = k then e.2 else Memory.read m k

/-- Replace the Word in cell `k`, keeping the canonical form. -/
def Memory.write : Memory → Nat → Word → Memory
  | [], k, w => if w = blankCell then [] else [(k, w)]
  | e :: m, k, w =>
    if k < e.1 then (if w = blankCell then e :: m else (k, w) :: e :: m)
    else if k = e.1 then (if w = blankCell then m else (k, w) :: m)
    else e :: Memory.write m k w

/-! ## Named updates of the state -/

/-- PC <- a. -/
def setPc (a : Address) (s : State) : State := { s with pc := a }

/-- DS <- d. -/
def setDs (d : List Word) (s : State) : State := { s with ds := d }

/-- RS <- r. -/
def setRs (r : List Word) (s : State) : State := { s with rs := r }

/-- MEM <- m. -/
def setMem (m : Memory) (s : State) : State := { s with mem := m }

/-- IN <- ts. -/
def setInput (ts : List Str) (s : State) : State := { s with input := ts }

/-- INWAIT <- b. -/
def setInWait (b : Bool) (s : State) : State := { s with inWait := b }

/-- `Emit(str)`: OUT gains one string at its end (00_scope.md R13; 10_state.md R37). -/
def emit (str : Str) (s : State) : State := { s with out := s.out ++ [str] }

/-- The end of a run by EXIT, its cursor aside: RUNNING and PHASE (40_fetch_decode_execute.md R118). -/
def stopRunning (s : State) : State := { s with running := false, phase := .halted }

/-- Entry into a run, its cursor aside: RUNNING, PHASE, FAULT, INWAIT (10_state.md R40). -/
def startRunning (s : State) : State :=
  { s with running := true, phase := .running, fault := none, inWait := false }

/-- Fault entry (60_exceptions.md R170): the record, RUNNING and PHASE; all else as before the step (R171). -/
def raise (kind : FaultKind) (opcode : Option (BitVec 8)) (s : State) : State :=
  { s with fault := some ⟨kind, opcode, s.pc⟩, running := false, phase := .faulted }

/-! ## The primitives of the pseudocode (00_scope.md R13): each answers, or names the fault it raises -/

/-- `MemRead(a, 1)` (20_memory.md R49). -/
def memRead (a : Address) (s : State) : Except FaultKind Word :=
  if valid s.segCount a then .ok (s.mem.read (toFlat a)) else .error .outOfBounds

/-- `MemWrite(a, 1, w)` (20_memory.md R50). -/
def memWrite (a : Address) (w : Word) (s : State) : Except FaultKind State :=
  if valid s.segCount a then .ok (setMem (s.mem.write (toFlat a) w) s) else .error .outOfBounds

/-- The check of `branch(t)`, made when the branch is taken (40_fetch_decode_execute.md R110). -/
def checkTarget (t : Address) (s : State) : Except FaultKind Address :=
  if valid s.segCount t then .ok t else .error .outOfBounds

/-- Whether a stack of this depth takes one more entry (00_scope.md R10, R13). -/
def hasRoom (c : Capacity) (depth : Nat) : Bool :=
  match c with
  | .finite n => decide (depth < n)
  | .unbounded => true

/-- `DS.pop()`. -/
def popDs (s : State) : Except FaultKind (Word × State) :=
  match s.ds with
  | [] => .error .stackUnderflow
  | w :: rest => .ok (w, setDs rest s)

/-- `DS.peek(k)`. -/
def peekDs (k : Nat) (s : State) : Except FaultKind Word :=
  match s.ds[k]? with
  | some w => .ok w
  | none => .error .stackUnderflow

/-- The capacity check of `DS.push`. -/
def checkRoomDs (s : State) : Except FaultKind Unit :=
  if hasRoom s.dsDepth s.ds.length then .ok () else .error .stackOverflow

/-- A push after the step's own pops, which cannot overflow (41_arith_logic.md R129, 42_stack.md R140). -/
def returnDs (w : Word) (s : State) : State := setDs (w :: s.ds) s

/-- `DS.push(w)`. -/
def pushDs (w : Word) (s : State) : Except FaultKind State :=
  match checkRoomDs s with
  | .ok _ => .ok (returnDs w s)
  | .error k => .error k

/-- `RS.pop()`. -/
def popRs (s : State) : Except FaultKind (Word × State) :=
  match s.rs with
  | [] => .error .stackUnderflow
  | w :: rest => .ok (w, setRs rest s)

/-- `RS.peek(k)`. No instruction uses it. -/
def peekRs (k : Nat) (s : State) : Except FaultKind Word :=
  match s.rs[k]? with
  | some w => .ok w
  | none => .error .stackUnderflow

/-- `RS.push(w)`. -/
def pushRs (w : Word) (s : State) : Except FaultKind State :=
  if hasRoom s.rsDepth s.rs.length then .ok (setRs (w :: s.rs) s) else .error .stackOverflow

/-- `ReadToken()` where the input source has supplied a token (46_io.md R154, R157). -/
def readToken (s : State) : Option (Str × State) :=
  match s.input with
  | [] => none
  | t :: rest => some (t, setInput rest s)

/-! ## The end of a step -/

/-- The next-cursor kinds (40_fetch_decode_execute.md R117), and `hold` for a CIN that waits (R123). -/
inductive Next where
  | seq
  | skip2
  | branch (target : Address)
  | halt
  | hold
deriving DecidableEq, Repr

/-- `advance(next)` (40_fetch_decode_execute.md R118). A held step leaves the cursor (R123). -/
def advance (n : Next) (s : State) : State :=
  match n with
  | .seq => setPc (increment s.segCount s.pc) s
  | .skip2 => setPc (increment s.segCount (increment s.segCount s.pc)) s
  | .branch t => setPc t s
  | .halt => stopRunning (setPc (increment s.segCount s.pc) s)
  | .hold => s

/-- The end of an instruction's step (40_fetch_decode_execute.md R114, R121): its effects and its advance are
committed together, or its fault is entered from the state before the step. -/
def settle (opcode : BitVec 8) (s : State) (attempt : Except FaultKind (State × Next)) : Result :=
  match attempt with
  | .ok (t, n) => .next (advance n t)
  | .error kind => .next (raise kind (some opcode) s)

/-! ## Fetch, and the steps that run no instruction -/

/-- Fetch of the cell at the cursor (40_fetch_decode_execute.md R115); `none` if the cursor names no cell. -/
def fetchCell (s : State) : Option Word :=
  match memRead s.pc s with
  | .ok w => some w
  | .error _ => none

/-- The stop of a running machine whose cursor names no cell (notes/assumptions/11). -/
def cursorStop : Result := .fault .cursorOutsideMemory

/-- The engine fault of a decode error (40_fetch_decode_execute.md R116). -/
def decodeFaultKind (e : DecodeError) : FaultKind :=
  match e with
  | .unknownOpcode => .unknownOpcode
  | .noOperand => .noOperand

/-- Fault entry of a cell that does not decode: the record's opcode is `decode_opcode(w)` (60_exceptions.md R170). -/
def decodeFault (e : DecodeError) (w : Word) (s : State) : Result :=
  .next (raise (decodeFaultKind e) (decodeOpcode w) s)

/-- While RUNNING is false the engine takes no step: the state stays (60_exceptions.md R176, R185; notes/assumptions/7). -/
def idle (s : State) : Result := .next s

end Sys2Proof.Machine
end

