-- ==== Sys2Proof/Machine/Operands.lean ====
section
/-! DEFINITION. Operand forms: the address operand (spec/30_encoding.md R76, R83, R88) and the shared shape of the
two-operand instructions (41_arith_logic.md R129). -/

namespace Sys2Proof.Machine

/-- `opaddr(u) = (u[15:12], u[11:0])` (30_encoding.md R76). -/
def opaddr (u : BitVec 16) : Address :=
  ⟨(u.extractLsb' 12 4).setWidth 8, (u.extractLsb' 0 12).setWidth 16⟩

/-- The operand of an opcode in REQ, or NoOperand (30_encoding.md R88). -/
def requireOperand (operand : Option (BitVec 16)) : Except FaultKind (BitVec 16) :=
  match operand with
  | some u => .ok u
  | none => .error .noOperand

/-- `binop(f)` (41_arith_logic.md R129): pop a, pop b, both Literals, push `f b a`. -/
def binop (f : BitVec 64 → BitVec 64 → BitVec 64) (s : State) : Except FaultKind (State × Next) := do
  let (a, s₁) ← popDs s
  let (b, s₂) ← popDs s₁
  match b, a with
  | .lit y, .lit x => .ok (returnDs (.lit (f y x)) s₂, .seq)
  | _, _ => .error .operandType

end Sys2Proof.Machine
end

