-- ==== Sys2Proof/Machine/ArithLogic.lean ====
section
/-! DEFINITION. Arithmetic and logic (spec/41_arith_logic.md). -/

namespace Sys2Proof.Machine

/-- ADD: `wrap64(b + a)` (R130). -/
def execAdd (s : State) : Result := settle 0x02 s (binop (fun b a => b + a) s)

/-- SUB: `wrap64(b - a)`, the second entry minus the top (R131). -/
def execSub (s : State) : Result := settle 0x03 s (binop (fun b a => b - a) s)

/-- AND, bitwise on 64 bits (R132). -/
def execAnd (s : State) : Result := settle 0x06 s (binop (fun b a => b &&& a) s)

/-- OR, bitwise on 64 bits (R133). -/
def execOr (s : State) : Result := settle 0x09 s (binop (fun b a => b ||| a) s)

/-- XOR, bitwise on 64 bits (R134). -/
def execXor (s : State) : Result := settle 0x0D s (binop (fun b a => b ^^^ a) s)

end Sys2Proof.Machine
end

