-- ==== Sys2Proof/Machine/Flags.lean ====
section
/-! DEFINITION. The machine has no flags and no instruction sets a status bit (spec/10_state.md R30). What another machine
reads from flags, IF computes from the Word it pops (30_encoding.md R80). -/

namespace Sys2Proof.Machine

/-- `TRUTHY_LIT`, the IF condition on a Literal, at its default: bits 31:28 of the low 32 bits are 1
(00_scope.md R201, 30_encoding.md R81; notes/assumptions/13). -/
def truthyLit (v : BitVec 64) : Bool := v.extractLsb' 28 4 == 1

/-- `truthy(w)`, the IF condition (30_encoding.md R80): the first hex digit of the canonical form is 1.
On a Literal it is the named parameter TRUTHY_LIT (00_scope.md R201), which at its default says the same. -/
def truthy (w : Word) : Bool :=
  match w with
  | .lit v => truthyLit v
  | .ins op operand => (canon (.ins op operand))[2]? == some '1'
  | .txt s => (canon (.txt s))[2]? == some '1'

end Sys2Proof.Machine
end

