-- ==== Sys2Proof/Machine/Control.lean ====
section
/-! DEFINITION. Control instructions (spec/45_control.md). -/

namespace Sys2Proof.Machine

/-- NOP (R149). -/
def execNop (s : State) : Result := settle 0x00 s (.ok (s, .seq))

/-- IF (R150): the target is checked only when the branch is taken. -/
def execBranchIf (operand : Option (BitVec 16)) (s : State) : Result :=
  settle 0x0E s do
    let u ← requireOperand operand
    let (v, s₁) ← popDs s
    if truthy v then
      let t ← checkTarget (opaddr u) s₁
      return (s₁, .branch t)
    else
      return (s₁, .seq)

/-- CALL (R151): an unconditional branch that pushes nothing. -/
def execCall (operand : Option (BitVec 16)) (s : State) : Result :=
  settle 0x0F s do
    let u ← requireOperand operand
    let t ← checkTarget (opaddr u) s
    return (s, .branch t)

/-- EXIT (R152). -/
def execExit (s : State) : Result := settle 0x10 s (.ok (s, .halt))

end Sys2Proof.Machine
end

