-- ==== Sys2Proof/Machine/DataStack.lean ====
section
/-! DEFINITION. Data Stack manipulation (spec/42_stack.md). -/

namespace Sys2Proof.Machine

/-- DROP (R137). -/
def execDrop (s : State) : Result :=
  settle 0x07 s do
    let (_, s₁) ← popDs s
    return (s₁, .seq)

/-- DUP (R138). -/
def execDup (s : State) : Result :=
  settle 0x08 s do
    let x ← peekDs 0 s
    let s₁ ← pushDs x s
    return (s₁, .seq)

/-- OVER (R139). -/
def execOver (s : State) : Result :=
  settle 0x0A s do
    let x ← peekDs 1 s
    let s₁ ← pushDs x s
    return (s₁, .seq)

/-- SWAP (R140). -/
def execSwap (s : State) : Result :=
  settle 0x0C s do
    let (a, s₁) ← popDs s
    let (b, s₂) ← popDs s₁
    return (returnDs b (returnDs a s₂), .seq)

end Sys2Proof.Machine
end

