-- ==== Sys2Proof/Machine/InputOutput.lean ====
section
/-! DEFINITION. Input and output (spec/46_io.md). -/

namespace Sys2Proof.Machine

/-- Decimal digits of `n`, no leading zeros, in front of `acc`; `fuel` bounds the number of digits. -/
def decimalDigits : Nat → Nat → Str → Str
  | 0, _, acc => acc
  | fuel + 1, n, acc =>
    if n < 10 then hexDigit n :: acc else decimalDigits fuel (n / 10) (hexDigit (n % 10) :: acc)

/-- `decimal(v)` (R156). The magnitude of an i64 has at most 19 digits. -/
def decimal (v : BitVec 64) : Str :=
  if v.toInt < 0 then '-' :: decimalDigits 20 (-v.toInt).toNat [] else decimalDigits 20 v.toInt.toNat []

/-- `render(x)`, the string COUT emits (R156). -/
def render (x : Word) : Str :=
  match x with
  | .lit v => decimal v
  | .txt s => s
  | .ins op operand => canon (.ins op operand)

/-- Whether `c` is one of `0-9`. -/
def isDecimalDigit (c : Char) : Bool := decide (48 ≤ c.toNat ∧ c.toNat ≤ 57)

/-- The value of a string of decimal digits. -/
def decimalValue (ds : Str) : Nat := ds.foldl (fun n c => 10 * n + (c.toNat - 48)) 0

/-- The integer a token names when it matches `-?[0-9]+` (R158). -/
def integerOfToken (t : Str) : Option Int :=
  match t with
  | '-' :: ds => if !ds.isEmpty && ds.all isDecimalDigit then some (-(decimalValue ds : Int)) else none
  | ds => if !ds.isEmpty && ds.all isDecimalDigit then some (decimalValue ds : Int) else none

/-- `CIN_CONVERT`, the Word CIN pushes, at its default (R158, 00_scope.md R201; notes/assumptions/14). -/
def cinConvert (t : Str) : Word :=
  match integerOfToken t with
  | some n => if -2 ^ 63 ≤ n ∧ n < 2 ^ 63 then .lit (BitVec.ofInt 64 n) else .txt t
  | none => .txt t

/-- COUT (R155). -/
def execCout (s : State) : Result :=
  settle 0x12 s do
    let (x, s₁) ← popDs s
    return (emit (render x) s₁, .seq)

/-- CIN (R157). Room is checked first. With no token supplied the step holds: INWAIT is true and nothing else
changes (40_fetch_decode_execute.md R123; notes/assumptions/9). -/
def execCin (s : State) : Result :=
  settle 0x13 s do
    checkRoomDs s
    match readToken s with
    | none => return (setInWait true s, .hold)
    | some (t, s₁) => return (returnDs (cinConvert t) (setInWait false s₁), .seq)

/-- STRLIT, an Instruction word with opcode 0x14 or a Text word: no effect, and no operand is read (R159). -/
def execStrlit (s : State) : Result := settle 0x14 s (.ok (s, .seq))

/-- The string of a Text word, or OperandType (R160). -/
def textOf (x : Word) : Except FaultKind Str :=
  match x with
  | .txt str => .ok str
  | .lit _ => .error .operandType
  | .ins _ _ => .error .operandType

/-- SOUT (R160). -/
def execSout (operand : Option (BitVec 16)) (s : State) : Result :=
  settle 0x15 s do
    let u ← requireOperand operand
    let x ← memRead (opaddr u) s
    let str ← textOf x
    return (emit str s, .seq)

end Sys2Proof.Machine
end

