-- ==== Sys2Proof/Machine/MemoryTransfer.lean ====
section
/-! DEFINITION. Memory transfer (spec/44_memory_access.md). -/

namespace Sys2Proof.Machine

/-- STORE (R145). -/
def execStore (operand : Option (BitVec 16)) (s : State) : Result :=
  settle 0x01 s do
    let u ← requireOperand operand
    let (v, s₁) ← popDs s
    let s₂ ← memWrite (opaddr u) v s₁
    return (s₂, .seq)

/-- FETCH (R146). -/
def execFetch (operand : Option (BitVec 16)) (s : State) : Result :=
  settle 0x05 s do
    let u ← requireOperand operand
    let x ← memRead (opaddr u) s
    let s₁ ← pushDs x s
    return (s₁, .seq)

/-- LIT (R147): the inline cell is at `lookahead(PC)` and the cursor advances by two. -/
def execLit (s : State) : Result :=
  settle 0x11 s do
    let x ← memRead (lookahead s.segCount s.pc) s
    let s₁ ← pushDs x s
    return (s₁, .skip2)

end Sys2Proof.Machine
end

