-- ==== Sys2Proof/Machine/ReturnStack.lean ====
section
/-! DEFINITION. Return Stack transfer (spec/43_return_stack.md). -/

namespace Sys2Proof.Machine

/-- RSTORE, `>R` (R142). -/
def execRstore (s : State) : Result :=
  settle 0x04 s do
    let (v, s₁) ← popDs s
    let s₂ ← pushRs v s₁
    return (s₂, .seq)

/-- RFETCH, `R>` (R143). -/
def execRfetch (s : State) : Result :=
  settle 0x0B s do
    let (v, s₁) ← popRs s
    let s₂ ← pushDs v s₁
    return (s₂, .seq)

end Sys2Proof.Machine
end

