-- ==== Sys2Proof/Machine/Dispatch.lean ====
section
/-! DEFINITION. Dispatch on the instruction (spec/40_fetch_decode_execute.md R117): one arm per constructor. -/

namespace Sys2Proof.Machine

-- The operand field is handed on only to the opcodes of REQ (30_encoding.md R87).
def exec (i : Instr) (s : State) : Host.Outcome State Fault Refusal :=
  match i with
  | .nop _ => Sys2Proof.Machine.execNop s
  | .store operand => Sys2Proof.Machine.execStore operand s
  | .add _ => Sys2Proof.Machine.execAdd s
  | .sub _ => Sys2Proof.Machine.execSub s
  | .rstore _ => Sys2Proof.Machine.execRstore s
  | .fetch operand => Sys2Proof.Machine.execFetch operand s
  | .and _ => Sys2Proof.Machine.execAnd s
  | .drop _ => Sys2Proof.Machine.execDrop s
  | .dup _ => Sys2Proof.Machine.execDup s
  | .or _ => Sys2Proof.Machine.execOr s
  | .copyOver _ => Sys2Proof.Machine.execOver s
  | .rfetch _ => Sys2Proof.Machine.execRfetch s
  | .swap _ => Sys2Proof.Machine.execSwap s
  | .xor _ => Sys2Proof.Machine.execXor s
  | .branchIf operand => Sys2Proof.Machine.execBranchIf operand s
  | .call operand => Sys2Proof.Machine.execCall operand s
  | .exit _ => Sys2Proof.Machine.execExit s
  | .lit _ => Sys2Proof.Machine.execLit s
  | .cout _ => Sys2Proof.Machine.execCout s
  | .cin _ => Sys2Proof.Machine.execCin s
  | .strlit _ => Sys2Proof.Machine.execStrlit s
  | .sout operand => Sys2Proof.Machine.execSout operand s

end Sys2Proof.Machine
end

