-- ==== Sys2Proof/Machine/Step.lean ====
section
/-! DEFINITION. One step (spec/40_fetch_decode_execute.md R114 to R117), and how the host places an instruction. -/

namespace Sys2Proof.Machine

/-- One step: while RUNNING, fetch, decode, execute; else nothing (40_fetch_decode_execute.md R114). -/
def step (s : State) : Host.Outcome State Fault Refusal :=
  if s.running then
    match fetchCell s with
    | none => cursorStop
    | some w =>
      match decode w with
      | .ok i => exec i s
      | .error e => decodeFault e w s
  else idle s

/-- `s` with the instruction whose image is the low 32 of the `nbits` bits of `w` in the cell at the cursor, the bits
above them (zero) as the image of the next cell, which is LIT's inline cell, and the engine RUNNING as after `run()`
(10_state.md R40). The cursor stays: at `State.reset` it is (0,0), where `run()` starts (notes/assumptions/10). -/
def State.withFetchWord (s : State) (nbits w : Nat) : State :=
  let bits := w % 2 ^ nbits
  let first := wordOfImage (BitVec.ofNat 32 bits)
  let second := wordOfImage (BitVec.ofNat 32 (bits / 2 ^ 32))
  let m := s.mem.write (toFlat (lookahead s.segCount s.pc)) second
  startRunning (setMem (m.write (toFlat s.pc) first) s)

end Sys2Proof.Machine
end

