-- ==== Sys2Proof/Machine/Assembler.lean ====
section
/-! DEFINITION. The assembler boundary (spec/30_encoding.md R97 to R103): pure functions of the host's side. -/

namespace Sys2Proof.Machine

/-- One entry of the Opcode Table (R97). -/
structure OpcodeEntry where
  mnemonic : Str
  opcode : BitVec 8
  operandCount : Nat
deriving DecidableEq, Repr

/-- The Opcode Table: 21 mnemonics and the two aliases; 0x14 has no entry (R82, R97, R99, R100). -/
def opcodeTable : List OpcodeEntry :=
  [⟨['N', 'O', 'P'], 0x00, 0⟩,
   ⟨['S', 'T', 'O', 'R', 'E'], 0x01, 1⟩,
   ⟨['A', 'D', 'D'], 0x02, 0⟩,
   ⟨['S', 'U', 'B'], 0x03, 0⟩,
   ⟨['R', 'S', 'T', 'O', 'R', 'E'], 0x04, 0⟩,
   ⟨['>', 'R'], 0x04, 0⟩,
   ⟨['F', 'E', 'T', 'C', 'H'], 0x05, 1⟩,
   ⟨['A', 'N', 'D'], 0x06, 0⟩,
   ⟨['D', 'R', 'O', 'P'], 0x07, 0⟩,
   ⟨['D', 'U', 'P'], 0x08, 0⟩,
   ⟨['O', 'R'], 0x09, 0⟩,
   ⟨['O', 'V', 'E', 'R'], 0x0A, 0⟩,
   ⟨['R', 'F', 'E', 'T', 'C', 'H'], 0x0B, 0⟩,
   ⟨['R', '>'], 0x0B, 0⟩,
   ⟨['S', 'W', 'A', 'P'], 0x0C, 0⟩,
   ⟨['X', 'O', 'R'], 0x0D, 0⟩,
   ⟨['I', 'F'], 0x0E, 1⟩,
   ⟨['C', 'A', 'L', 'L'], 0x0F, 1⟩,
   ⟨['E', 'X', 'I', 'T'], 0x10, 0⟩,
   ⟨['L', 'I', 'T'], 0x11, 0⟩,
   ⟨['C', 'O', 'U', 'T'], 0x12, 0⟩,
   ⟨['C', 'I', 'N'], 0x13, 0⟩,
   ⟨['S', 'O', 'U', 'T'], 0x15, 1⟩]

/-- The entry of a mnemonic, matched exactly (R98, R100). -/
def lookupMnemonic (m : Str) : Except HostError OpcodeEntry :=
  match opcodeTable.find? (fun e => e.mnemonic == m) with
  | some e => .ok e
  | none => .error .unknownMnemonic

/-- `opcode_of` (R98). -/
def opcodeOf (m : Str) : Except HostError (BitVec 8) :=
  match lookupMnemonic m with
  | .ok e => .ok e.opcode
  | .error e => .error e

/-- `required_operand_count` (R99). -/
def requiredOperandCount (m : Str) : Except HostError Nat :=
  match lookupMnemonic m with
  | .ok e => .ok e.operandCount
  | .error e => .error e

/-- The value of one hexadecimal digit, either case (R102). -/
def hexDigitValue (c : Char) : Option Nat :=
  if 48 ≤ c.toNat ∧ c.toNat ≤ 57 then some (c.toNat - 48)
  else if 65 ≤ c.toNat ∧ c.toNat ≤ 70 then some (c.toNat - 55)
  else if 97 ≤ c.toNat ∧ c.toNat ≤ 102 then some (c.toNat - 87)
  else none

/-- `hexval`: the value of a string of hexadecimal digits, after the digits already read; `none` on another character. -/
def hexValueFrom : Nat → Str → Option Nat
  | n, [] => some n
  | n, c :: cs =>
    match hexDigitValue c with
    | some d => hexValueFrom (16 * n + d) cs
    | none => none

/-- The Address of a segment and an offset, if the offset fits its u16 (R101, R102). -/
def literalAddress (segment offset : Nat) : Except HostError Address :=
  if offset ≤ 0xFFFF then .ok ⟨BitVec.ofNat 8 segment, BitVec.ofNat 16 offset⟩ else .error .malformedAddress

/-- `parse_address_literal` (R101, R102): with more than 3 digits the first is the segment. -/
def parseAddressLiteral (s : Str) : Except HostError Address :=
  match s with
  | [] => .error .malformedAddress
  | c :: cs =>
    if 3 < s.length then
      match hexDigitValue c, hexValueFrom 0 cs with
      | some segment, some offset => literalAddress segment offset
      | _, _ => .error .malformedAddress
    else
      match hexValueFrom 0 s with
      | some offset => literalAddress 0 offset
      | none => .error .malformedAddress

/-- Packing an Address into an operand, `u = (seg << 12) | off` with `off ≤ 0xFFF` (R103). A segment above 0xF, which
the parser never gives, does not fit the operand either. -/
def packAddress (a : Address) : Except HostError (BitVec 16) :=
  if a.offset.toNat ≤ 0xFFF ∧ a.segment.toNat ≤ 0xF then
    .ok (BitVec.ofNat 16 (a.segment.toNat * 4096 + a.offset.toNat))
  else .error .invalidOperand

end Sys2Proof.Machine
end

