-- ==== Sys2Proof/Machine/HostInterface.lean ====
section
/-! DEFINITION. The host interface (spec/60_exceptions.md R177, R180): calls that land between steps. -/

namespace Sys2Proof.Machine

/-- `construct(segment_count)` (70_reset_and_hazards.md R186, R187), with the model's depth parameters (00_scope.md R10). -/
def construct (segmentCount : BitVec 8) (dsDepth rsDepth : Capacity) : Except HostError State :=
  if 1 ≤ segmentCount.toNat ∧ segmentCount.toNat ≤ Config.maxSegments then
    .ok (State.constructed segmentCount.toNat dsDepth rsDepth)
  else .error .tooMuchMemoryRequested

/-- `fill_next(w)` (20_memory.md R59). -/
def fillNext (w : Word) (s : State) : Except HostError State :=
  if s.phase ≠ .loading then .error .notLoading
  else if s.fillCnt = capacity s.segCount then .error .outOfBounds
  else .ok { s with
    mem := s.mem.write (toFlat s.pc) w
    pc := increment s.segCount s.pc
    fillCnt := s.fillCnt + 1 }

/-- `run()` entry (40_fetch_decode_execute.md R113): the steps that follow are `step`'s. -/
def runEntry (s : State) : Except HostError State :=
  if s.phase = .running then .error .busy else .ok (startRunning (setPc Address.origin s))

/-- A token is a non-empty string without white space (46_io.md R154). -/
def isToken (t : Str) : Bool := !t.isEmpty && t.all (fun c => !c.isWhitespace)

/-- The input source supplies a token, at any time (60_exceptions.md R180). A string that is no token is not supplied:
the interface has none to hand over (notes/assumptions/8). -/
def supplyToken (t : Str) (s : State) : State :=
  if isToken t then setInput (s.input ++ [t]) s else s

/-- What the host may read of a stopped engine (10_state.md R38; 60_exceptions.md R180). -/
structure Inspection where
  mem : Memory
  pc : Address
  ds : List Word
  rs : List Word
  phase : Phase
  fault : Option FaultRecord
  fillCnt : Nat
  segCount : Nat
deriving DecidableEq, Repr

/-- `inspect`, not available while PHASE = Running (10_state.md R38; D42 of 92_eei_decisions.md). -/
def inspect (s : State) : Option Inspection :=
  if s.phase = .running then none
  else some ⟨s.mem, s.pc, s.ds, s.rs, s.phase, s.fault, s.fillCnt, s.segCount⟩

/-- What `run()` gives back once RUNNING is false (40_fetch_decode_execute.md R114): ok when Halted, else the record;
`none` while the run goes on or before the first one. -/
def runResult (s : State) : Option (Except FaultRecord Unit) :=
  match s.phase with
  | .loading => none
  | .running => none
  | .halted => some (.ok ())
  | .faulted =>
    match s.fault with
    | some r => some (.error r)
    | none => none

/-- The loop of `run()` for at most `fuel` steps (40_fetch_decode_execute.md R114). -/
def runLoop : Nat → State → Result
  | 0, s => .next s
  | fuel + 1, s =>
    if s.running then
      match step s with
      | .next t => runLoop fuel t
      | .fault f => .fault f
      | .refused r => .refused r
    else .next s

/-- The loader: `fill_next` of each word in load order (70_reset_and_hazards.md R190). -/
def load : List Word → State → Except HostError State
  | [], s => .ok s
  | w :: ws, s =>
    match fillNext w s with
    | .ok t => load ws t
    | .error e => .error e

/-- The numeric cause code of a kind, and 0 for no record (60_exceptions.md R168). -/
def faultCode (k : Option FaultKind) : Nat :=
  match k with
  | none => 0
  | some .stackUnderflow => 1
  | some .outOfBounds => 2
  | some .noOperand => 3
  | some .unknownOpcode => 4
  | some .operandType => 5
  | some .stackOverflow => 6

/-- The host calls that change an engine (60_exceptions.md R180). -/
inductive HostCall where
  | fill (w : Word)
  | run
  | token (t : Str)
deriving DecidableEq, Repr

/-- What a host call does, or the error it gets back (60_exceptions.md R177, R180). -/
def hostCall (c : HostCall) (s : State) : Except HostError State :=
  match c with
  | .fill w => fillNext w s
  | .run => runEntry s
  | .token t => .ok (supplyToken t s)

end Sys2Proof.Machine
end

