-- ==== Sys2Proof/Safety.lean ====
section
/-! DEFINITION. What a legal state is, and the terms in which statements speak of faults and stacks. -/

namespace Sys2Proof.Machine

/-- A stack of this depth is within its capacity (spec/00_scope.md R10). -/
def withinCapacity (c : Capacity) (depth : Nat) : Bool :=
  match c with
  | .finite n => decide (depth ≤ n)
  | .unbounded => true

/-- The Word in the cell at the cursor. -/
def cellAtCursor (s : State) : Word := s.mem.read (toFlat s.pc)

/-- The legal states of an engine: what spec/10_state.md says of every state it gives the machine.
The hypothesis of the statements that could fail only in a state no run reaches. -/
structure Legal (s : State) : Prop where
  /-- SEGCOUNT is 1 to 16 (10_state.md R32). -/
  segments : 1 ≤ s.segCount ∧ s.segCount ≤ Config.maxSegments
  /-- Only valid addresses are ever held in PC (R22). -/
  cursorValid : valid s.segCount s.pc
  /-- Memory keeps its canonical form. -/
  memCanonical : s.mem.wf
  /-- Memory lists no cell outside the address space (20_memory.md R44). -/
  memInside : ∀ e ∈ s.mem, e.1 < capacity s.segCount
  /-- The depth of DS is at most DS_DEPTH (R26). -/
  dsWithin : withinCapacity s.dsDepth s.ds.length = true
  /-- The depth of RS is at most RS_DEPTH (R27). -/
  rsWithin : withinCapacity s.rsDepth s.rs.length = true
  /-- RUNNING is true exactly in phase Running (R33). -/
  runningPhase : s.running = true ↔ s.phase = .running
  /-- The record is valid exactly in phase Faulted (R34). -/
  faultPhase : s.fault.isSome = true ↔ s.phase = .faulted
  /-- The record names the cursor and the opcode of the cell there (60_exceptions.md R170). -/
  faultRecord : ∀ r ∈ s.fault, r.cursor = s.pc ∧ r.opcode = decodeOpcode (cellAtCursor s)
  /-- FILLCNT is at most CAPACITY (R35). -/
  fillCount : s.fillCnt ≤ capacity s.segCount
  /-- During Loading the cursor is the loader's position and nothing has run (20_memory.md R60, 10_state.md R39). -/
  loading : s.phase = .loading →
    toFlat s.pc = s.fillCnt % capacity s.segCount ∧ s.ds = [] ∧ s.rs = [] ∧ s.out = []
  /-- INWAIT is true only while a CIN at the cursor waits, with room for the Word it will push (R36, 46_io.md R157). -/
  waiting : s.inWait = true →
    s.running = true ∧ decodeOpcode (cellAtCursor s) = some 0x13 ∧ hasRoom s.dsDepth s.ds.length = true
  /-- The input source supplies tokens only (46_io.md R154). -/
  tokens : ∀ t ∈ s.input, isToken t = true

/-- The states an engine can come to: constructed, stepped, and called by its host (60_exceptions.md R180). -/
inductive Reachable : State → Prop where
  | constructed {segmentCount : BitVec 8} {dsDepth rsDepth : Capacity} {s : State}
      (h : construct segmentCount dsDepth rsDepth = .ok s) : Reachable s
  | stepped {s t : State} (hs : Reachable s) (h : step s = .next t) : Reachable t
  | called {s t : State} {c : HostCall} (hs : Reachable s) (h : hostCall c s = .ok t) : Reachable t

/-- `r` raises `kind`: the run stops and the record reports the failing opcode and the cursor
(60_exceptions.md R161, R170). What else the state holds then is `faultedFrom`'s business. -/
def Raises (r : Result) (kind : FaultKind) (opcode : BitVec 8) (s : State) : Prop :=
  ∃ t, r = .next t ∧ t.running = false ∧ t.fault = some ⟨kind, some opcode, s.pc⟩

/-- The state after a faulting step, written out: the block of 60_exceptions.md R170. That nothing else changes
is the spec's own decision D7 (40_fetch_decode_execute.md R121; notes/assumptions/15). -/
def faultedFrom (kind : FaultKind) (opcode : Option (BitVec 8)) (s : State) : State :=
  { s with fault := some ⟨kind, opcode, s.pc⟩, running := false, phase := .faulted }

/-- DS takes one more entry: unbounded, or its depth is below DS_DEPTH (00_scope.md R10, R13). -/
def RoomDs (s : State) : Prop := s.dsDepth = .unbounded ∨ ∃ n, s.dsDepth = .finite n ∧ s.ds.length < n

/-- DS is full: DS_DEPTH is finite and reached (00_scope.md R10, R13). -/
def FullDs (s : State) : Prop := ∃ n, s.dsDepth = .finite n ∧ n ≤ s.ds.length

/-- RS takes one more entry. -/
def RoomRs (s : State) : Prop := s.rsDepth = .unbounded ∨ ∃ n, s.rsDepth = .finite n ∧ s.rs.length < n

/-- RS is full. -/
def FullRs (s : State) : Prop := ∃ n, s.rsDepth = .finite n ∧ n ≤ s.rs.length

/-- The cursor after the cell at the cursor. -/
abbrev nextCell (s : State) : Address := increment s.segCount s.pc

/-- Apply `f` to the next state of an outcome. -/
def mapNext (f : State → State) (r : Result) : Result :=
  match r with
  | .next t => .next (f t)
  | .fault x => .fault x
  | .refused x => .refused x

end Sys2Proof.Machine
end

