-- ==== Sys2Proof/Certificates/Slice0/Obligations.lean ====
section
/-! DEFINITION. The statements about the model, each from a rule of spec/ (OBLIGATIONS.json lists them). A result is
stated as the whole next state, so that each such statement is also the instruction's frame and its completion. -/

open Sys2Proof Sys2Proof.Machine

/-! ## Arithmetic and logic (41_arith_logic.md) -/

/-- R130: opcode 0x02, one cell; pops a and b and pushes `wrap64(b + a)`; nothing else changes but the cursor. -/
def Obligations.AddPushesWrappedSum : Prop :=
  ∀ operand : Option (BitVec 16),
    decode (.ins 0x02 operand) = .ok (.add operand) ∧ (Instr.add operand).cells = 1 ∧
    ∀ (s : State) (a b : BitVec 64) (rest : List Word), s.ds = .lit a :: .lit b :: rest →
      exec (.add operand) s = .next { s with
        ds := .lit (BitVec.ofInt 64 (b.toInt + a.toInt)) :: rest
        pc := nextCell s }

/-- R131: opcode 0x03, one cell; pushes `wrap64(b - a)`, the second entry minus the top. -/
def Obligations.SubPushesWrappedDifference : Prop :=
  ∀ operand : Option (BitVec 16),
    decode (.ins 0x03 operand) = .ok (.sub operand) ∧ (Instr.sub operand).cells = 1 ∧
    ∀ (s : State) (a b : BitVec 64) (rest : List Word), s.ds = .lit a :: .lit b :: rest →
      exec (.sub operand) s = .next { s with
        ds := .lit (BitVec.ofInt 64 (b.toInt - a.toInt)) :: rest
        pc := nextCell s }

/-- R132: opcode 0x06, one cell; pushes the Literal whose every bit is the conjunction of the operands' bits. -/
def Obligations.AndPushesBitwiseConjunction : Prop :=
  ∀ operand : Option (BitVec 16),
    decode (.ins 0x06 operand) = .ok (.and operand) ∧ (Instr.and operand).cells = 1 ∧
    ∀ (s : State) (a b : BitVec 64) (rest : List Word), s.ds = .lit a :: .lit b :: rest →
      ∃ c : BitVec 64, (∀ k, c.getLsbD k = (b.getLsbD k && a.getLsbD k)) ∧
        exec (.and operand) s = .next { s with ds := .lit c :: rest, pc := nextCell s }

/-- R133: opcode 0x09, one cell; pushes the Literal whose every bit is the disjunction of the operands' bits. -/
def Obligations.OrPushesBitwiseDisjunction : Prop :=
  ∀ operand : Option (BitVec 16),
    decode (.ins 0x09 operand) = .ok (.or operand) ∧ (Instr.or operand).cells = 1 ∧
    ∀ (s : State) (a b : BitVec 64) (rest : List Word), s.ds = .lit a :: .lit b :: rest →
      ∃ c : BitVec 64, (∀ k, c.getLsbD k = (b.getLsbD k || a.getLsbD k)) ∧
        exec (.or operand) s = .next { s with ds := .lit c :: rest, pc := nextCell s }

/-- R134: opcode 0x0D, one cell; pushes the Literal whose every bit is the exclusive or of the operands' bits. -/
def Obligations.XorPushesBitwiseExclusiveOr : Prop :=
  ∀ operand : Option (BitVec 16),
    decode (.ins 0x0D operand) = .ok (.xor operand) ∧ (Instr.xor operand).cells = 1 ∧
    ∀ (s : State) (a b : BitVec 64) (rest : List Word), s.ds = .lit a :: .lit b :: rest →
      ∃ c : BitVec 64, (∀ k, c.getLsbD k = (b.getLsbD k ^^ a.getLsbD k)) ∧
        exec (.xor operand) s = .next { s with ds := .lit c :: rest, pc := nextCell s }

/-- R129's exceptions in order, for ADD, SUB, AND, OR, XOR: StackUnderflow below two entries; then OperandType unless
both are Literals. The OperandType fault is the spec's own decision D6 (notes/assumptions/15). -/
def Obligations.ArithLogicFaults : Prop :=
  ∀ (operand : Option (BitVec 16)) (i : Instr),
    i ∈ [Instr.add operand, .sub operand, .and operand, .or operand, .xor operand] →
    ∀ s : State,
      (s.ds.length < 2 → Raises (exec i s) .stackUnderflow i.opcode s) ∧
      (∀ (a b : Word) (rest : List Word), s.ds = a :: b :: rest →
        ((∀ v, a ≠ .lit v) ∨ (∀ v, b ≠ .lit v)) → Raises (exec i s) .operandType i.opcode s)

/-! ## Data Stack (42_stack.md) -/

/-- R137: opcode 0x07, one cell; DROP pops and discards the top, of any variant; StackUnderflow on an empty stack. -/
def Obligations.DropDiscardsTop : Prop :=
  ∀ operand : Option (BitVec 16),
    decode (.ins 0x07 operand) = .ok (.drop operand) ∧ (Instr.drop operand).cells = 1 ∧
    ∀ s : State,
      (∀ (x : Word) (rest : List Word), s.ds = x :: rest →
        exec (.drop operand) s = .next { s with ds := rest, pc := nextCell s }) ∧
      (s.ds = [] → Raises (exec (.drop operand) s) .stackUnderflow 0x07 s)

/-- R138: DUP pushes a copy of the top. StackUnderflow on an empty stack is the spec's decision D39 and StackOverflow
its D11 (notes/assumptions/15, 5). -/
def Obligations.DupCopiesTop : Prop :=
  ∀ (operand : Option (BitVec 16)) (s : State),
    (∀ (x : Word) (rest : List Word), s.ds = x :: rest → RoomDs s →
      exec (.dup operand) s = .next { s with ds := x :: x :: rest, pc := nextCell s }) ∧
    (s.ds = [] → Raises (exec (.dup operand) s) .stackUnderflow 0x08 s) ∧
    (s.ds ≠ [] → FullDs s → Raises (exec (.dup operand) s) .stackOverflow 0x08 s)

/-- R139: OVER pushes a copy of the second entry. StackUnderflow below two entries is the spec's decision D39 and
StackOverflow its D11 (notes/assumptions/15, 5). -/
def Obligations.OverCopiesSecond : Prop :=
  ∀ (operand : Option (BitVec 16)) (s : State),
    (∀ (y x : Word) (rest : List Word), s.ds = y :: x :: rest → RoomDs s →
      exec (.copyOver operand) s = .next { s with ds := x :: y :: x :: rest, pc := nextCell s }) ∧
    (s.ds.length < 2 → Raises (exec (.copyOver operand) s) .stackUnderflow 0x0A s) ∧
    (2 ≤ s.ds.length → FullDs s → Raises (exec (.copyOver operand) s) .stackOverflow 0x0A s)

/-- R140: opcode 0x0C, one cell; SWAP exchanges the top two; StackUnderflow below two, and DS is
then as before, which rests on the spec's own decision D7 (notes/assumptions/15). -/
def Obligations.SwapExchangesTopTwo : Prop :=
  ∀ operand : Option (BitVec 16),
    decode (.ins 0x0C operand) = .ok (.swap operand) ∧ (Instr.swap operand).cells = 1 ∧
    ∀ s : State,
      (∀ (a b : Word) (rest : List Word), s.ds = a :: b :: rest →
        exec (.swap operand) s = .next { s with ds := b :: a :: rest, pc := nextCell s }) ∧
      (s.ds.length < 2 → Raises (exec (.swap operand) s) .stackUnderflow 0x0C s ∧
        ∀ t, exec (.swap operand) s = .next t → t.ds = s.ds)

/-- R141: DUP DROP and SWAP SWAP leave the stack as it was, and OVER OVER copies the top two. Rests on R138's and
R139's decisions only where they fault, which the hypotheses exclude. -/
def Obligations.StackLawSequences : Prop :=
  ∀ (p q : Option (BitVec 16)) (s : State) (y x : Word) (rest : List Word), s.ds = y :: x :: rest →
    (RoomDs s → ∃ t, exec (.dup p) s = .next t ∧
      exec (.drop q) t = .next { s with pc := nextCell { s with pc := nextCell s } }) ∧
    (∃ t, exec (.swap p) s = .next t ∧
      exec (.swap q) t = .next { s with pc := nextCell { s with pc := nextCell s } }) ∧
    (RoomDs { s with ds := x :: s.ds } → ∃ t, exec (.copyOver p) s = .next t ∧
      exec (.copyOver q) t = .next { s with
        ds := y :: x :: y :: x :: rest
        pc := nextCell { s with pc := nextCell s } })

/-! ## Return Stack (43_return_stack.md) -/

/-- R142: RSTORE moves the DS top to RS. StackOverflow on a full RS is the spec's decision D11 (notes/assumptions/5). -/
def Obligations.RstoreMovesTopToReturnStack : Prop :=
  ∀ (operand : Option (BitVec 16)) (s : State),
    (∀ (v : Word) (rest : List Word), s.ds = v :: rest → RoomRs s →
      exec (.rstore operand) s = .next { s with ds := rest, rs := v :: s.rs, pc := nextCell s }) ∧
    (s.ds = [] → Raises (exec (.rstore operand) s) .stackUnderflow 0x04 s) ∧
    (s.ds ≠ [] → FullRs s → Raises (exec (.rstore operand) s) .stackOverflow 0x04 s)

/-- R143: RFETCH moves the RS top to DS. StackOverflow on a full DS is the spec's decision D11 (notes/assumptions/5). -/
def Obligations.RfetchMovesTopToDataStack : Prop :=
  ∀ (operand : Option (BitVec 16)) (s : State),
    (∀ (v : Word) (rest : List Word), s.rs = v :: rest → RoomDs s →
      exec (.rfetch operand) s = .next { s with ds := v :: s.ds, rs := rest, pc := nextCell s }) ∧
    (s.rs = [] → Raises (exec (.rfetch operand) s) .stackUnderflow 0x0B s) ∧
    (s.rs ≠ [] → FullDs s → Raises (exec (.rfetch operand) s) .stackOverflow 0x0B s)

/-! ## Memory transfer (44_memory_access.md) -/

/-- R145: opcode 0x01, one cell; STORE pops v and writes it to the cell `opaddr(u)`. Exceptions in order: NoOperand,
StackUnderflow, OutOfBounds, and after OutOfBounds v is still on DS, which rests on the spec's own decision D7
(notes/assumptions/15). -/
def Obligations.StoreWritesPoppedWord : Prop :=
  (∀ u : BitVec 16, decode (.ins 0x01 (some u)) = .ok (.store (some u)) ∧ (Instr.store (some u)).cells = 1) ∧
  decode (.ins 0x01 none) = .error .noOperand ∧
  ∀ s : State,
    Raises (exec (.store none) s) .noOperand 0x01 s ∧
    ∀ u : BitVec 16,
      (s.ds = [] → Raises (exec (.store (some u)) s) .stackUnderflow 0x01 s) ∧
      (s.ds ≠ [] → ¬ valid s.segCount (opaddr u) →
        Raises (exec (.store (some u)) s) .outOfBounds 0x01 s ∧
        ∀ t, exec (.store (some u)) s = .next t → t.ds = s.ds) ∧
      (∀ (v : Word) (rest : List Word), s.ds = v :: rest → valid s.segCount (opaddr u) →
        exec (.store (some u)) s = .next { s with
          ds := rest
          mem := s.mem.write (toFlat (opaddr u)) v
          pc := nextCell s })

/-- R146: opcode 0x05, one cell; FETCH pushes the Word in the cell `opaddr(u)`, of any variant, `Ins(0x00)` from a cell
never written; memory is unchanged. Exceptions in order: NoOperand, OutOfBounds, StackOverflow,
the last by the spec's own decision D11 (notes/assumptions/5). -/
def Obligations.FetchPushesCell : Prop :=
  (∀ u : BitVec 16, decode (.ins 0x05 (some u)) = .ok (.fetch (some u)) ∧ (Instr.fetch (some u)).cells = 1) ∧
  decode (.ins 0x05 none) = .error .noOperand ∧
  (∀ k, State.reset.mem.read k = .ins 0x00 none) ∧
  ∀ s : State,
    Raises (exec (.fetch none) s) .noOperand 0x05 s ∧
    ∀ u : BitVec 16,
      (¬ valid s.segCount (opaddr u) → Raises (exec (.fetch (some u)) s) .outOfBounds 0x05 s) ∧
      (valid s.segCount (opaddr u) → FullDs s → Raises (exec (.fetch (some u)) s) .stackOverflow 0x05 s) ∧
      (valid s.segCount (opaddr u) → RoomDs s →
        exec (.fetch (some u)) s = .next { s with
          ds := s.mem.read (toFlat (opaddr u)) :: s.ds
          pc := nextCell s })

/-- R147: opcode 0x11, two cells; LIT pushes the Word in the cell after the cursor, unchanged, and the cursor advances
by two cells. StackOverflow only, by the spec's own decision D11 (notes/assumptions/5). The cursor is a valid address,
as it always is (R22). -/
def Obligations.LitPushesInlineCell : Prop :=
  ∀ operand : Option (BitVec 16),
    decode (.ins 0x11 operand) = .ok (.lit operand) ∧ (Instr.lit operand).cells = 2 ∧
    ∀ s : State, valid s.segCount s.pc →
      (RoomDs s → exec (.lit operand) s = .next { s with
        ds := s.mem.read (toFlat (nextCell s)) :: s.ds
        pc := increment s.segCount (nextCell s) }) ∧
      (FullDs s → Raises (exec (.lit operand) s) .stackOverflow 0x11 s)

/-- R64, R195: a STORE to the next cell is what the next step fetches. Memory is in its canonical form, which every step
keeps (`StepKeepsLegal`). That the fetch sees the store rests on the spec's decision D26 (notes/assumptions/15). -/
def Obligations.StoredWordIsFetchedNext : Prop :=
  ∀ (s : State) (u : BitVec 16) (w : Word) (rest : List Word),
    s.mem.wf → s.running = true → valid s.segCount s.pc → cellAtCursor s = .ins 0x01 (some u) →
    opaddr u = nextCell s → s.ds = w :: rest →
    ∃ t, step s = .next t ∧ t.running = true ∧ t.pc = opaddr u ∧ fetchCell t = some w

/-! ## Control (45_control.md) -/

/-- R149: opcode 0x00, one cell; NOP has no effect, ignores an operand and never faults. Every cell holds it at
construction (R52). -/
def Obligations.NopOnlyAdvances : Prop :=
  (∀ n d r k, decode ((State.constructed n d r).mem.read k) = .ok (.nop none)) ∧
  ∀ operand : Option (BitVec 16),
    decode (.ins 0x00 operand) = .ok (.nop operand) ∧ (Instr.nop operand).cells = 1 ∧
    ∀ s : State, exec (.nop operand) s = .next { s with pc := nextCell s }

/-- R150: IF pops v; truthy, it branches to `opaddr(u)` with no increment, else it falls through. That the target is
checked only when the branch is taken is the spec's decision D17, and truthiness of a Literal rests on its D3
(notes/assumptions/15, 13). -/
def Obligations.IfBranchesOnTruthyTop : Prop :=
  ∀ s : State,
    Raises (exec (.branchIf none) s) .noOperand 0x0E s ∧
    ∀ u : BitVec 16,
      (s.ds = [] → Raises (exec (.branchIf (some u)) s) .stackUnderflow 0x0E s) ∧
      (∀ (v : Word) (rest : List Word), s.ds = v :: rest →
        (truthy v = true → valid s.segCount (opaddr u) →
          exec (.branchIf (some u)) s = .next { s with ds := rest, pc := opaddr u }) ∧
        (truthy v = true → ¬ valid s.segCount (opaddr u) →
          Raises (exec (.branchIf (some u)) s) .outOfBounds 0x0E s) ∧
        (truthy v = false →
          exec (.branchIf (some u)) s = .next { s with ds := rest, pc := nextCell s }))

/-- R151: opcode 0x0F, one cell; CALL branches to `opaddr(u)` and pushes nothing. Exceptions: NoOperand, OutOfBounds. -/
def Obligations.CallBranchesAndPushesNothing : Prop :=
  (∀ u : BitVec 16, decode (.ins 0x0F (some u)) = .ok (.call (some u)) ∧ (Instr.call (some u)).cells = 1) ∧
  decode (.ins 0x0F none) = .error .noOperand ∧
  ∀ s : State,
    Raises (exec (.call none) s) .noOperand 0x0F s ∧
    ∀ u : BitVec 16,
      (valid s.segCount (opaddr u) → exec (.call (some u)) s = .next { s with pc := opaddr u }) ∧
      (¬ valid s.segCount (opaddr u) → Raises (exec (.call (some u)) s) .outOfBounds 0x0F s)

/-- R152: opcode 0x10, one cell; EXIT sets RUNNING false and PHASE Halted, and the cursor advances by one cell.
Stacks, memory and output are unchanged, and it never faults. PHASE is the spec's own refinement of RUNNING, D28
(notes/assumptions/15). -/
def Obligations.ExitHaltsTheRun : Prop :=
  ∀ operand : Option (BitVec 16),
    decode (.ins 0x10 operand) = .ok (.exit operand) ∧ (Instr.exit operand).cells = 1 ∧
    ∀ s : State, exec (.exit operand) s = .next { s with running := false, phase := .halted, pc := nextCell s }

/-! ## Input and output (46_io.md) -/

/-- R155: opcode 0x12, one cell; COUT pops x and appends `render(x)` to OUT; StackUnderflow on an empty stack. The
rule's example: 10 is emitted as "10". -/
def Obligations.CoutEmitsRenderedTop : Prop :=
  render (.lit 10) = ['1', '0'] ∧
  ∀ operand : Option (BitVec 16),
    decode (.ins 0x12 operand) = .ok (.cout operand) ∧ (Instr.cout operand).cells = 1 ∧
    ∀ s : State,
      (∀ (x : Word) (rest : List Word), s.ds = x :: rest →
        exec (.cout operand) s = .next { s with ds := rest, out := s.out ++ [render x], pc := nextCell s }) ∧
      (s.ds = [] → Raises (exec (.cout operand) s) .stackUnderflow 0x12 s)

/-- R157: CIN pushes the converted next token; with none supplied it holds with INWAIT true and nothing else changed
(the spec's D15; notes/assumptions/9); StackOverflow before a token is read is its D11 (notes/assumptions/5). -/
def Obligations.CinPushesNextTokenOrHolds : Prop :=
  ∀ (operand : Option (BitVec 16)) (s : State),
    (∀ (t : Str) (rest : List Str), s.input = t :: rest → RoomDs s →
      exec (.cin operand) s = .next { s with
        ds := cinConvert t :: s.ds
        input := rest
        inWait := false
        pc := nextCell s }) ∧
    (s.input = [] → RoomDs s → exec (.cin operand) s = .next { s with inWait := true }) ∧
    (FullDs s → Raises (exec (.cin operand) s) .stackOverflow 0x13 s ∧
      ∀ t, exec (.cin operand) s = .next t → t.input = s.input)

/-- R159: an Instruction word with opcode 0x14 and a Text word decode to STRLIT, which only advances the cursor. That
it has no effect is the spec's own decision D9 (notes/assumptions/15). -/
def Obligations.StrlitOnlyAdvances : Prop :=
  (∀ operand : Option (BitVec 16), decode (.ins 0x14 operand) = .ok (.strlit (.marker operand))) ∧
  (∀ text : Str, decode (.txt text) = .ok (.strlit (.text text))) ∧
  ∀ (form : StrlitForm) (s : State), exec (.strlit form) s = .next { s with pc := nextCell s }

/-- R160: SOUT appends the string of the Text word in the cell `opaddr(u)` to OUT; stacks and memory are unchanged.
OperandType on another Word is the spec's decision D16 (notes/assumptions/15). -/
def Obligations.SoutEmitsAddressedText : Prop :=
  ∀ s : State,
    Raises (exec (.sout none) s) .noOperand 0x15 s ∧
    ∀ u : BitVec 16,
      (¬ valid s.segCount (opaddr u) → Raises (exec (.sout (some u)) s) .outOfBounds 0x15 s) ∧
      (valid s.segCount (opaddr u) → (∀ str, s.mem.read (toFlat (opaddr u)) ≠ .txt str) →
        Raises (exec (.sout (some u)) s) .operandType 0x15 s) ∧
      (∀ str, valid s.segCount (opaddr u) → s.mem.read (toFlat (opaddr u)) = .txt str →
        exec (.sout (some u)) s = .next { s with out := s.out ++ [str], pc := nextCell s })

/-- R156, R158: `render` gives a Text its string and an Instruction its canonical form, and what it gives a Literal is
a token that `cinConvert` reads back as that Literal, `0` being "0". A string that matches `-?[0-9]+` converts to the
Literal of its value where that is an i64, and every other string to the Text that holds it. The renderings and the
conversion are the spec's decisions D13 and D14 (notes/assumptions/15, 14). -/
def Obligations.RenderedLiteralReadsBack : Prop :=
  (∀ v : BitVec 64, cinConvert (render (.lit v)) = .lit v ∧ isToken (render (.lit v)) = true ∧
    (v.toInt < 0 ↔ (render (.lit v)).head? = some '-') ∧
    ((render (.lit v)).head? = some '0' ↔ v = 0)) ∧
  (∀ str : Str, render (.txt str) = str) ∧
  (∀ (op : BitVec 8) (operand : Option (BitVec 16)), render (.ins op operand) = canon (.ins op operand)) ∧
  (∀ (digits sign t : Str) (n : Nat) (z : Int), digits ≠ [] → (∀ c ∈ digits, '0' ≤ c ∧ c ≤ '9') →
    n = Nat.ofDigits 10 ((digits.map fun c => c.toNat - '0'.toNat).reverse) →
    (sign = [] ∧ z = n ∨ sign = ['-'] ∧ z = -n) → t = sign ++ digits →
    (-2 ^ 63 ≤ z → z < 2 ^ 63 → cinConvert t = .lit (BitVec.ofInt 64 z)) ∧
    (z < -2 ^ 63 ∨ 2 ^ 63 ≤ z → cinConvert t = .txt t)) ∧
  ∀ t : Str,
    (∀ sign digits : Str, (sign = [] ∨ sign = ['-']) → digits ≠ [] → (∀ c ∈ digits, '0' ≤ c ∧ c ≤ '9') →
      t ≠ sign ++ digits) →
    cinConvert t = .txt t

/-! ## What an instruction leaves alone -/

/-- R58, R50: an instruction changes no cell but the one a STORE addresses. Every other address reads as before. -/
def Obligations.OnlyStoreWritesMemory : Prop :=
  ∀ (i : Instr) (s t : State), exec i s = .next t →
    ∀ a : Address, (∀ u, i = .store (some u) → a ≠ opaddr u) → memRead a t = memRead a s

/-- R31 to R38, R144 and the table of R28: SEGCOUNT, the depth parameters and FILLCNT never change; RS changes only
by RSTORE and RFETCH; OUT only grows, and only by COUT and SOUT; IN and INWAIT change only by CIN; DS is unchanged by
NOP, CALL, EXIT, STRLIT and SOUT; RUNNING, PHASE and FAULT change only by fault entry and, but for FAULT, by EXIT. That
fault entry changes nothing else rests on the spec's D7, PHASE on its D28 (notes/assumptions/15). -/
def Obligations.OtherStateIsLeftAlone : Prop :=
  ∀ (i : Instr) (s t : State), exec i s = .next t →
    t.segCount = s.segCount ∧ t.dsDepth = s.dsDepth ∧ t.rsDepth = s.rsDepth ∧ t.fillCnt = s.fillCnt ∧
    ((∀ o, i ≠ .rstore o ∧ i ≠ .rfetch o) → t.rs = s.rs) ∧
    (t.out = s.out ∨ ∃ str, t.out = s.out ++ [str]) ∧
    ((∀ o, i ≠ .cout o ∧ i ≠ .sout o) → t.out = s.out) ∧
    ((∀ o, i ≠ .cin o) → t.input = s.input ∧ t.inWait = s.inWait) ∧
    ((∃ o f, i = .nop o ∨ i = .call o ∨ i = .exit o ∨ i = .strlit f ∨ i = .sout o) → t.ds = s.ds) ∧
    ((∀ o, i ≠ .exit o) →
      (t.running = s.running ∧ t.phase = s.phase ∧ t.fault = s.fault) ∨
      ∃ kind, t = faultedFrom kind (some i.opcode) s) ∧
    ((∃ o, i = .exit o) → t.running = false ∧ t.phase = .halted ∧ t.fault = s.fault)

/-- R23, R119: where the cursor goes. A faulting step leaves it; CALL and a taken IF set the operand address; LIT
advances by two cells; a CIN that holds leaves it; every other completed step advances by one cell. That a fault leaves
it rests on the spec's D7 (notes/assumptions/15). -/
def Obligations.CursorMoves : Prop :=
  ∀ (i : Instr) (s t : State), s.fault = none → exec i s = .next t →
    (t.fault ≠ none → t.pc = s.pc) ∧
    (t.fault = none →
      (∀ u, i = .call (some u) → t.pc = opaddr u) ∧
      (∀ u v rest, i = .branchIf (some u) → s.ds = v :: rest →
        t.pc = if truthy v then opaddr u else nextCell s) ∧
      (∀ o, i = .lit o → t.pc = increment s.segCount (nextCell s)) ∧
      (∀ o, i = .cin o → s.input = [] → t.pc = s.pc) ∧
      ((∀ o, i ≠ .call o ∧ i ≠ .branchIf o ∧ i ≠ .lit o) → (∀ o, i = .cin o → s.input ≠ []) →
        t.pc = nextCell s))

/-- R87: an operand on an opcode outside REQ changes nothing: two such instructions of one opcode act alike. It is the
spec's own decision D10 (notes/assumptions/15). -/
def Obligations.IgnoredOperandChangesNothing : Prop :=
  ∀ (i j : Instr), i.opcode = j.opcode → requiresOperand i.opcode = false → ∀ s : State, exec i s = exec j s

/-! ## The loop, faults and the end of a run -/

/-- R115 to R117: while RUNNING, when the cell at the cursor decodes, the step is that instruction's. -/
def Obligations.StepRunsTheDecodedInstruction : Prop :=
  ∀ (s : State) (i : Instr), s.running = true → valid s.segCount s.pc → decode (cellAtCursor s) = .ok i →
    step s = exec i s

/-- R84, R85, R88, R170: a cell with an opcode above 0x15, a Literal, and an opcode of REQ without its operand fault at
decode and nothing else of the state changes. The Literal case is the spec's D8, the unchanged rest its D7
(notes/assumptions/15). -/
def Obligations.UndecodableCellFaults : Prop :=
  ∀ s : State, s.running = true → valid s.segCount s.pc →
    (∀ op operand, cellAtCursor s = .ins op operand → 0x15 < op.toNat →
      step s = .next (faultedFrom .unknownOpcode (some op) s)) ∧
    (∀ v, cellAtCursor s = .lit v → step s = .next (faultedFrom .unknownOpcode none s)) ∧
    (∀ op, cellAtCursor s = .ins op none → op ∈ [0x01, 0x05, 0x0E, 0x0F, 0x15] →
      step s = .next (faultedFrom .noOperand (some op) s))

/-- R114, R185: while RUNNING is false the engine takes no step. That the model answers the same state is its own
choice (notes/assumptions/7). -/
def Obligations.StoppedEngineStays : Prop :=
  ∀ s : State, s.running = false → step s = .next s

/-- R121, R170, R171: a step that faults commits nothing. What it leaves is the state before it with the record of kind,
opcode of the cell and cursor, RUNNING false and PHASE Faulted. The spec's own decision D7 (notes/assumptions/15). -/
def Obligations.FaultingStepCommitsNothing : Prop :=
  ∀ s t : State, Legal s → s.running = true → step s = .next t → t.phase = .faulted →
    ∃ kind, t = faultedFrom kind (decodeOpcode (cellAtCursor s)) s

/-- R125: a run ends only by an EXIT at the cursor or by a fault with a record of the cursor. -/
def Obligations.RunEndsOnlyByExitOrFault : Prop :=
  ∀ s t : State, s.running = true → step s = .next t → t.running = false →
    ((∃ o, decode (cellAtCursor s) = .ok (.exit o)) ∧ t.phase = .halted) ∨
    (t.phase = .faulted ∧ ∃ r, t.fault = some r ∧ r.cursor = s.pc)

/-- R33: the phases change only Running to Halted or Faulted by a step, and Loading, Halted or Faulted to Running by a
host call. PHASE is the spec's own refinement of RUNNING, D28 (notes/assumptions/15). -/
def Obligations.PhaseTransitions : Prop :=
  ∀ s : State, Legal s →
    (∀ t, step s = .next t →
      t.phase = s.phase ∨ (s.phase = .running ∧ (t.phase = .halted ∨ t.phase = .faulted))) ∧
    (∀ c t, hostCall c s = .ok t →
      t.phase = s.phase ∨ (c = .run ∧ s.phase ≠ .running ∧ t.phase = .running))

/-- R36, R123, R157: a CIN that waits holds the whole state while no token is supplied, and a supplied token ends the
wait at the next step, which pushes it converted. -/
def Obligations.WaitingCinHoldsUntilToken : Prop :=
  ∀ s : State, Legal s → s.inWait = true → s.input = [] →
    step s = .next s ∧
    ∀ token : Str, isToken token = true →
      step (supplyToken token s) = .next { s with
        ds := cinConvert token :: s.ds
        inWait := false
        pc := nextCell s }

/-- R38: no step reads or writes OUT's past or FILLCNT: a machine that differs from another only there takes the same
steps, and its OUT gains the same strings. -/
def Obligations.StepIgnoresOutputAndFillCount : Prop :=
  ∀ (s : State) (past : List Str) (n : Nat),
    step { s with out := past ++ s.out, fillCnt := n } =
      mapNext (fun t => { t with out := past ++ t.out, fillCnt := n }) (step s)

/-- The legal-state invariant holds at reset (R39), where SEGCOUNT is the model's own choice (notes/assumptions/4). -/
def Obligations.LegalHoldsAtReset : Prop := Legal State.reset

/-- Every step keeps the legal-state invariant: a valid cursor (R22), canonical memory inside the address space, stacks within
their capacity (R26, R27), RUNNING and PHASE agreed (R33), a record exactly when Faulted (R34), INWAIT only at a waiting
CIN (R36). PHASE and the record are the spec's own decisions D28 and D22 (notes/assumptions/15). -/
def Obligations.StepKeepsLegal : Prop :=
  ∀ s t : State, Legal s → step s = .next t → Legal t

/-- From every legal state `step` answers a next state: the model never stops by a fault or a refusal of its own. While
RUNNING is false the engine takes no step, and that `step` then answers the same state is the model's own choice
(notes/assumptions/7); while a CIN holds the engine takes no other step, and that the hold is a step of the model is its
reading (notes/assumptions/9). -/
def Obligations.LegalStateAlwaysSteps : Prop :=
  ∀ s : State, Legal s → ∃ t, step s = .next t

/-- Every host call that succeeds keeps the invariant, and construction establishes it; so every reachable state is
legal (60_exceptions.md R180). -/
def Obligations.ReachableStatesAreLegal : Prop :=
  (∀ n d r s, construct n d r = .ok s → Legal s) ∧
  (∀ c s t, Legal s → hostCall c s = .ok t → Legal t) ∧
  (∀ s, Reachable s → Legal s)

/-! ## The codec (30_encoding.md) -/

/-- R82, R84 to R88: decoding and encoding are inverse. Every well-formed instruction is decoded from its Word, with
every operand, and every Word that decodes gives a well-formed instruction whose Word it is; the words that do not decode
are the Literals, the opcodes above 0x15 and REQ without an operand. -/
def Obligations.DecodeAndEncodeAreInverse : Prop :=
  (∀ i : Instr, WellFormed i = true → decode (encode i) = .ok i) ∧
  (∀ (w : Word) (i : Instr), decode w = .ok i →
    WellFormed i = true ∧ encode i = w ∧ decodeOpcode w = some i.opcode) ∧
  (∀ w : Word, (∃ e, decode w = .error e) ↔
    (∃ v, w = .lit v) ∨ (∃ op o, w = .ins op o ∧ 0x15 < op.toNat) ∨
    (∃ op, w = .ins op none ∧ op ∈ [0x01, 0x05, 0x0E, 0x0F, 0x15]))

/-- R70, R73: the image has the opcode in bits 31:24, the operand in 23:8 and a zero pad, the canonical form of an
Instruction word is `0x` and the image's eight hex digits, and reading the image gives the Word back but for two forms,
since the image lacks the presence bit: a zero operand outside REQ, and an opcode of REQ without its operand. How presence
is read is the model's choice (notes/assumptions/12). -/
def Obligations.ImageOfInstructionWord : Prop :=
  ∀ (op : BitVec 8) (operand : Option (BitVec 16)),
    (image op operand).extractLsb' 24 8 = op ∧
    (image op operand).extractLsb' 8 16 = operand.getD 0 ∧
    (image op operand).extractLsb' 0 8 = 0 ∧
    canon (.ins op operand) = '0' :: 'x' :: hexN 8 (image op operand).toNat ∧
    (∀ u, operand = some u → (requiresOperand op = true ∨ u ≠ 0) → wordOfImage (image op operand) = .ins op operand) ∧
    (operand = none → requiresOperand op = false → wordOfImage (image op operand) = .ins op operand)

/-- Words written out from the opcode table's rows (R70, R82) decode to the instructions they stand for. -/
def Obligations.SampleWordsDecode : Prop :=
  decodeTableWord 32 0x00000000 = some (.nop none) ∧
  decodeTableWord 32 0x02000000 = some (.add none) ∧
  decodeTableWord 32 0x08000000 = some (.dup none) ∧
  decodeTableWord 32 0x0B000000 = some (.rfetch none) ∧
  decodeTableWord 32 0x01000500 = some (.store (some 0x0005)) ∧
  decodeTableWord 32 0x0F03FF00 = some (.call (some 0x03FF)) ∧
  decodeTableWord 32 0x15000900 = some (.sout (some 0x0009)) ∧
  decodeTableWord 32 0x16000000 = none

/-- R80: a Word is truthy exactly when the first hex digit after `0x` of its canonical form is `1`. -/
def Obligations.TruthyIsFirstHexDigit : Prop :=
  ∀ w : Word, truthy w = true ↔ (canon w)[2]? = some '1'

/-- R81: truthiness per variant. For a Literal it rests on the spec's decision D3 (notes/assumptions/13). -/
def Obligations.TruthyPerVariant : Prop :=
  (∀ op operand, truthy (.ins op operand) = true ↔ 0x10 ≤ op.toNat ∧ op.toNat ≤ 0x1F) ∧
  (∀ v : BitVec 64, truthy (.lit v) = true ↔
    0x10000000 ≤ v.toNat % 2 ^ 32 ∧ v.toNat % 2 ^ 32 ≤ 0x1FFFFFFF) ∧
  (∀ str, truthy (.txt str) = true)

/-- R90, R96: `encode_instruction` accepts an operand of 0 to 0xFFFF and an omitted operand outside REQ, building that
Instruction, refuses the rest with InvalidOperand, and what it accepts `decode_opcode` and `decode_operand` recover
exactly. That it accepts every opcode, and an operand outside REQ, is the spec's decision D33 (notes/assumptions/15). -/
def Obligations.EncodeInstructionRoundTrip : Prop :=
  ∀ op : BitVec 8,
    (∀ u : Int, 0 ≤ u → u ≤ 0xFFFF →
      ∃ v : BitVec 16, (v.toNat : Int) = u ∧ encodeInstruction op (some u) = .ok (.ins op (some v))) ∧
    (∀ u : Int, u < 0 ∨ 0xFFFF < u → encodeInstruction op (some u) = .error .invalidOperand) ∧
    (op ∉ [0x01, 0x05, 0x0E, 0x0F, 0x15] → encodeInstruction op none = .ok (.ins op none)) ∧
    (op ∈ [0x01, 0x05, 0x0E, 0x0F, 0x15] → encodeInstruction op none = .error .invalidOperand) ∧
    (∀ (u : Int) (w : Word), encodeInstruction op (some u) = .ok w →
      decodeOpcode w = some op ∧ ∃ v : BitVec 16, decodeOperand w = .ok v ∧ (v.toNat : Int) = u) ∧
    (∀ w, encodeInstruction op none = .ok w → decodeOpcode w = some op ∧ decodeOperand w = .error .noOperand)

/-- R75, R69: word equality is coarser than identity: presence of a zero operand, a Literal's high half, and the
variant of an Instruction and the Literal of its image are not seen by it, though the Words differ. For Literals it
rests on the spec's decision D3 (notes/assumptions/13). -/
def Obligations.WordEqualityIsCoarse : Prop :=
  (∀ op, wordEq (.ins op none) (.ins op (some 0)) = true ∧ Word.ins op none ≠ .ins op (some 0)) ∧
  (∀ v : BitVec 64, wordEq (.lit v) (.lit (v + 0x100000000)) = true ∧ Word.lit v ≠ .lit (v + 0x100000000)) ∧
  (∀ op operand, wordEq (.lit ((image op operand).setWidth 64)) (.ins op operand) = true) ∧
  (∀ v v' : BitVec 64, wordEq (.lit v) (.lit v') = true → v.toNat % 2 ^ 32 = v'.toNat % 2 ^ 32)

/-! ## Addresses, cursor and memory (20_memory.md, 40_fetch_decode_execute.md) -/

/-- R108: `increment` adds one to the offset, rolls over into the next segment, and wraps to (0,0) only at the end of
the last segment; it keeps validity. -/
def Obligations.IncrementRollsOverAndWraps : Prop :=
  ∀ (n : Nat) (a : Address), 1 ≤ n → n ≤ Config.maxSegments → valid n a →
    valid n (increment n a) ∧
    (a.offset.toNat < 1023 →
      (increment n a).segment = a.segment ∧ (increment n a).offset.toNat = a.offset.toNat + 1) ∧
    (a.offset.toNat = 1023 → a.segment.toNat + 1 < n →
      (increment n a).segment.toNat = a.segment.toNat + 1 ∧ (increment n a).offset = 0) ∧
    (a.offset.toNat = 1023 → a.segment.toNat + 1 = n → increment n a = ⟨0, 0⟩)

/-- R112: in flat terms `increment` is addition of one modulo CAPACITY, and CAPACITY increments are the identity. -/
def Obligations.IncrementIsFlatSuccessor : Prop :=
  ∀ (n : Nat) (a : Address), 1 ≤ n → n ≤ Config.maxSegments → valid n a →
    toFlat (increment n a) = (toFlat a + 1) % capacity n ∧
    (increment n)^[capacity n] a = a

/-- R48: `to_flat` and `from_flat` are inverse, and validity in flat terms. Beyond 262143 `from_flat` fails, by the
spec's decision D38 (notes/assumptions/15). -/
def Obligations.FlatConversionLaws : Prop :=
  (∀ a : Address, a.offset.toNat < 1024 → fromFlat (toFlat a) = .ok a) ∧
  (∀ n, n < 262144 → ∃ a, fromFlat n = .ok a ∧ toFlat a = n ∧
    ∀ segments, segments ≤ Config.maxSegments → (valid segments a ↔ n < capacity segments)) ∧
  (∀ n, 262144 ≤ n → fromFlat n = .error .outOfBounds)

/-- R49, R50, R51, R61: an access outside fails and never wraps; a write replaces the whole cell, so a read of it gives
the Word written, and no other address reads differently. Memory is in its canonical form, which every step keeps
(`StepKeepsLegal`). -/
def Obligations.ReadAfterWrite : Prop :=
  ∀ (s : State) (a : Address) (w : Word), s.mem.wf →
    (¬ valid s.segCount a → memWrite a w s = .error .outOfBounds ∧ memRead a s = .error .outOfBounds) ∧
    (valid s.segCount a → ∃ t, memWrite a w s = .ok t ∧ memRead a t = .ok w ∧
      ∀ b, b ≠ a → memRead b t = memRead b s)

/-- Two canonical memories that read alike everywhere are equal data. The form is the model's own (notes/assumptions/1). -/
def Obligations.CanonicalMemoriesWithEqualReadsAreEqual : Prop :=
  ∀ m m' : Memory, m.wf → m'.wf → (∀ k, m.read k = m'.read k) → m = m'

/-! ## The host interface (60_exceptions.md, 70_reset_and_hazards.md) -/

/-- R187, R39: construction checks 1 to 16 and gives the state of R39. The stacks, RUNNING, PHASE, FAULT, FILLCNT,
INWAIT and OUT there are the spec's own decisions (D12, D40, D28, D22, D18, D36; notes/assumptions/15), and IN is the
model's (notes/assumptions/8). -/
def Obligations.ConstructionGivesTheResetState : Prop :=
  ∀ (n : BitVec 8) (d r : Capacity),
    ((n.toNat = 0 ∨ 16 < n.toNat) → construct n d r = .error .tooMuchMemoryRequested) ∧
    (1 ≤ n.toNat → n.toNat ≤ 16 → ∃ s, construct n d r = .ok s ∧
      s.segCount = n.toNat ∧ s.dsDepth = d ∧ s.rsDepth = r ∧
      (∀ a, valid n.toNat a → memRead a s = .ok (.ins 0x00 none)) ∧
      s.pc = ⟨0, 0⟩ ∧ s.ds = [] ∧ s.rs = [] ∧ s.running = false ∧ s.phase = .loading ∧ s.fault = none ∧
      s.fillCnt = 0 ∧ s.inWait = false ∧ s.out = [] ∧ s.input = [])

/-- R59, R66, R38: `fill_next` writes at the cursor and advances it; it is refused once CAPACITY words are loaded and
outside Loading, and a running engine can be neither filled nor inspected. Counting fills is the spec's decision D18,
inspection its D42 (notes/assumptions/15). -/
def Obligations.FillNextLoadsAtTheCursor : Prop :=
  ∀ (s : State) (w : Word),
    (s.phase ≠ .loading → fillNext w s = .error .notLoading) ∧
    (s.phase = .loading → s.fillCnt = capacity s.segCount → fillNext w s = .error .outOfBounds) ∧
    (s.phase = .loading → s.fillCnt ≠ capacity s.segCount →
      fillNext w s = .ok { s with
        mem := s.mem.write (toFlat s.pc) w
        pc := nextCell s
        fillCnt := s.fillCnt + 1 }) ∧
    (s.phase = .running → inspect s = none)

/-- R60, R190: loading a program of at most CAPACITY words into a new engine succeeds, and word k is then at
`from_flat(k)`, every later cell still `Ins(0x00)`; a longer program is refused with OutOfBounds. -/
def Obligations.LoaderPlacesWordKAtFlatK : Prop :=
  ∀ (n : BitVec 8) (d r : Capacity) (s : State) (program : List Word), construct n d r = .ok s →
    (program.length ≤ capacity n.toNat → ∃ t, load program s = .ok t ∧
      t.fillCnt = program.length ∧ t.phase = .loading ∧
      (∀ k, k < capacity n.toNat →
        ∃ a, fromFlat k = .ok a ∧ memRead a t = .ok (program.getD k (.ins 0x00 none)))) ∧
    (capacity n.toNat < program.length → load program s = .error .outOfBounds)

/-- R113, R40, R41: `run()` is Busy while Running; else it sets the cursor to (0,0), RUNNING, PHASE Running, clears
FAULT and INWAIT, and keeps all else. Busy and the kept state are the spec's decisions D19 and D12 (notes/assumptions/15). -/
def Obligations.RunEntryResetsTheCursor : Prop :=
  ∀ s : State,
    (s.phase = .running → runEntry s = .error .busy) ∧
    (s.phase ≠ .running → runEntry s = .ok { s with
      pc := ⟨0, 0⟩
      running := true
      phase := .running
      fault := none
      inWait := false })

/-- R101 to R103: an address literal that parses and packs names the same Address through `opaddr`; a literal of one to
four hex digits always packs, to its own value; another character is malformed. The details are the spec's decisions
D31 and D32 (notes/assumptions/15). -/
def Obligations.AddressLiteralPacksToOperand : Prop :=
  (∀ (str : Str) (a : Address) (u : BitVec 16), parseAddressLiteral str = .ok a → packAddress a = .ok u →
    opaddr u = a) ∧
  (∀ (str : Str) (n : Nat), 1 ≤ str.length → str.length ≤ 4 → hexValueFrom 0 str = some n →
    ∃ a, parseAddressLiteral str = .ok a ∧ packAddress a = .ok (BitVec.ofNat 16 n)) ∧
  (∀ str : Str, (str = [] ∨ ∃ c ∈ str, hexDigitValue c = none) → parseAddressLiteral str = .error .malformedAddress)

/-- R82, R97 to R100: the Opcode Table holds exactly the 21 mnemonics of the map, each with its opcode, and the aliases
`>R` and `R>`; so it names every opcode of the map but 0x14, and its operand count is 1 exactly for REQ. The aliases are
the spec's decision D29, the counts its D30, the missing 0x14 its D9 (notes/assumptions/15). -/
def Obligations.OpcodeTableAgreesWithTheMap : Prop :=
  (∀ (m : Str) (op : BitVec 8), opcodeOf m = .ok op ↔ (m, op) ∈
    ([(['N', 'O', 'P'], 0x00), (['S', 'T', 'O', 'R', 'E'], 0x01), (['A', 'D', 'D'], 0x02),
      (['S', 'U', 'B'], 0x03), (['R', 'S', 'T', 'O', 'R', 'E'], 0x04), (['>', 'R'], 0x04),
      (['F', 'E', 'T', 'C', 'H'], 0x05), (['A', 'N', 'D'], 0x06), (['D', 'R', 'O', 'P'], 0x07),
      (['D', 'U', 'P'], 0x08), (['O', 'R'], 0x09), (['O', 'V', 'E', 'R'], 0x0A),
      (['R', 'F', 'E', 'T', 'C', 'H'], 0x0B), (['R', '>'], 0x0B), (['S', 'W', 'A', 'P'], 0x0C),
      (['X', 'O', 'R'], 0x0D), (['I', 'F'], 0x0E), (['C', 'A', 'L', 'L'], 0x0F),
      (['E', 'X', 'I', 'T'], 0x10), (['L', 'I', 'T'], 0x11), (['C', 'O', 'U', 'T'], 0x12),
      (['C', 'I', 'N'], 0x13), (['S', 'O', 'U', 'T'], 0x15)] : List (Str × BitVec 8))) ∧
  (∀ op : BitVec 8, (∃ m, opcodeOf m = .ok op) ↔ op.toNat ≤ 0x15 ∧ op ≠ 0x14) ∧
  (∀ m op, opcodeOf m = .ok op → requiredOperandCount m = .ok (if requiresOperand op then 1 else 0)) ∧
  (∀ m, (∀ op, opcodeOf m ≠ .ok op) → opcodeOf m = .error .unknownMnemonic ∧
    requiredOperandCount m = .error .unknownMnemonic)
end

