-- ==== Sys2Proof/Laws/State.lean ====
section
/-! SUPPORT. One lemma per field per named update of the state, each true by rfl. -/

namespace Sys2Proof.Machine

/-! ## setPc -/

@[simp] theorem setPc_segCount (a : Address) (s : State) : (setPc a s).segCount = s.segCount := rfl
@[simp] theorem setPc_dsDepth (a : Address) (s : State) : (setPc a s).dsDepth = s.dsDepth := rfl
@[simp] theorem setPc_rsDepth (a : Address) (s : State) : (setPc a s).rsDepth = s.rsDepth := rfl
@[simp] theorem setPc_mem (a : Address) (s : State) : (setPc a s).mem = s.mem := rfl
@[simp] theorem setPc_pc (a : Address) (s : State) : (setPc a s).pc = a := rfl
@[simp] theorem setPc_ds (a : Address) (s : State) : (setPc a s).ds = s.ds := rfl
@[simp] theorem setPc_rs (a : Address) (s : State) : (setPc a s).rs = s.rs := rfl
@[simp] theorem setPc_running (a : Address) (s : State) : (setPc a s).running = s.running := rfl
@[simp] theorem setPc_phase (a : Address) (s : State) : (setPc a s).phase = s.phase := rfl
@[simp] theorem setPc_fault (a : Address) (s : State) : (setPc a s).fault = s.fault := rfl
@[simp] theorem setPc_fillCnt (a : Address) (s : State) : (setPc a s).fillCnt = s.fillCnt := rfl
@[simp] theorem setPc_inWait (a : Address) (s : State) : (setPc a s).inWait = s.inWait := rfl
@[simp] theorem setPc_out (a : Address) (s : State) : (setPc a s).out = s.out := rfl
@[simp] theorem setPc_input (a : Address) (s : State) : (setPc a s).input = s.input := rfl

/-! ## setDs -/

@[simp] theorem setDs_segCount (d : List Word) (s : State) : (setDs d s).segCount = s.segCount := rfl
@[simp] theorem setDs_dsDepth (d : List Word) (s : State) : (setDs d s).dsDepth = s.dsDepth := rfl
@[simp] theorem setDs_rsDepth (d : List Word) (s : State) : (setDs d s).rsDepth = s.rsDepth := rfl
@[simp] theorem setDs_mem (d : List Word) (s : State) : (setDs d s).mem = s.mem := rfl
@[simp] theorem setDs_pc (d : List Word) (s : State) : (setDs d s).pc = s.pc := rfl
@[simp] theorem setDs_ds (d : List Word) (s : State) : (setDs d s).ds = d := rfl
@[simp] theorem setDs_rs (d : List Word) (s : State) : (setDs d s).rs = s.rs := rfl
@[simp] theorem setDs_running (d : List Word) (s : State) : (setDs d s).running = s.running := rfl
@[simp] theorem setDs_phase (d : List Word) (s : State) : (setDs d s).phase = s.phase := rfl
@[simp] theorem setDs_fault (d : List Word) (s : State) : (setDs d s).fault = s.fault := rfl
@[simp] theorem setDs_fillCnt (d : List Word) (s : State) : (setDs d s).fillCnt = s.fillCnt := rfl
@[simp] theorem setDs_inWait (d : List Word) (s : State) : (setDs d s).inWait = s.inWait := rfl
@[simp] theorem setDs_out (d : List Word) (s : State) : (setDs d s).out = s.out := rfl
@[simp] theorem setDs_input (d : List Word) (s : State) : (setDs d s).input = s.input := rfl

/-! ## setRs -/

@[simp] theorem setRs_segCount (r : List Word) (s : State) : (setRs r s).segCount = s.segCount := rfl
@[simp] theorem setRs_dsDepth (r : List Word) (s : State) : (setRs r s).dsDepth = s.dsDepth := rfl
@[simp] theorem setRs_rsDepth (r : List Word) (s : State) : (setRs r s).rsDepth = s.rsDepth := rfl
@[simp] theorem setRs_mem (r : List Word) (s : State) : (setRs r s).mem = s.mem := rfl
@[simp] theorem setRs_pc (r : List Word) (s : State) : (setRs r s).pc = s.pc := rfl
@[simp] theorem setRs_ds (r : List Word) (s : State) : (setRs r s).ds = s.ds := rfl
@[simp] theorem setRs_rs (r : List Word) (s : State) : (setRs r s).rs = r := rfl
@[simp] theorem setRs_running (r : List Word) (s : State) : (setRs r s).running = s.running := rfl
@[simp] theorem setRs_phase (r : List Word) (s : State) : (setRs r s).phase = s.phase := rfl
@[simp] theorem setRs_fault (r : List Word) (s : State) : (setRs r s).fault = s.fault := rfl
@[simp] theorem setRs_fillCnt (r : List Word) (s : State) : (setRs r s).fillCnt = s.fillCnt := rfl
@[simp] theorem setRs_inWait (r : List Word) (s : State) : (setRs r s).inWait = s.inWait := rfl
@[simp] theorem setRs_out (r : List Word) (s : State) : (setRs r s).out = s.out := rfl
@[simp] theorem setRs_input (r : List Word) (s : State) : (setRs r s).input = s.input := rfl

/-! ## setMem -/

@[simp] theorem setMem_segCount (m : Memory) (s : State) : (setMem m s).segCount = s.segCount := rfl
@[simp] theorem setMem_dsDepth (m : Memory) (s : State) : (setMem m s).dsDepth = s.dsDepth := rfl
@[simp] theorem setMem_rsDepth (m : Memory) (s : State) : (setMem m s).rsDepth = s.rsDepth := rfl
@[simp] theorem setMem_mem (m : Memory) (s : State) : (setMem m s).mem = m := rfl
@[simp] theorem setMem_pc (m : Memory) (s : State) : (setMem m s).pc = s.pc := rfl
@[simp] theorem setMem_ds (m : Memory) (s : State) : (setMem m s).ds = s.ds := rfl
@[simp] theorem setMem_rs (m : Memory) (s : State) : (setMem m s).rs = s.rs := rfl
@[simp] theorem setMem_running (m : Memory) (s : State) : (setMem m s).running = s.running := rfl
@[simp] theorem setMem_phase (m : Memory) (s : State) : (setMem m s).phase = s.phase := rfl
@[simp] theorem setMem_fault (m : Memory) (s : State) : (setMem m s).fault = s.fault := rfl
@[simp] theorem setMem_fillCnt (m : Memory) (s : State) : (setMem m s).fillCnt = s.fillCnt := rfl
@[simp] theorem setMem_inWait (m : Memory) (s : State) : (setMem m s).inWait = s.inWait := rfl
@[simp] theorem setMem_out (m : Memory) (s : State) : (setMem m s).out = s.out := rfl
@[simp] theorem setMem_input (m : Memory) (s : State) : (setMem m s).input = s.input := rfl

/-! ## setInput -/

@[simp] theorem setInput_segCount (ts : List Str) (s : State) : (setInput ts s).segCount = s.segCount := rfl
@[simp] theorem setInput_dsDepth (ts : List Str) (s : State) : (setInput ts s).dsDepth = s.dsDepth := rfl
@[simp] theorem setInput_rsDepth (ts : List Str) (s : State) : (setInput ts s).rsDepth = s.rsDepth := rfl
@[simp] theorem setInput_mem (ts : List Str) (s : State) : (setInput ts s).mem = s.mem := rfl
@[simp] theorem setInput_pc (ts : List Str) (s : State) : (setInput ts s).pc = s.pc := rfl
@[simp] theorem setInput_ds (ts : List Str) (s : State) : (setInput ts s).ds = s.ds := rfl
@[simp] theorem setInput_rs (ts : List Str) (s : State) : (setInput ts s).rs = s.rs := rfl
@[simp] theorem setInput_running (ts : List Str) (s : State) : (setInput ts s).running = s.running := rfl
@[simp] theorem setInput_phase (ts : List Str) (s : State) : (setInput ts s).phase = s.phase := rfl
@[simp] theorem setInput_fault (ts : List Str) (s : State) : (setInput ts s).fault = s.fault := rfl
@[simp] theorem setInput_fillCnt (ts : List Str) (s : State) : (setInput ts s).fillCnt = s.fillCnt := rfl
@[simp] theorem setInput_inWait (ts : List Str) (s : State) : (setInput ts s).inWait = s.inWait := rfl
@[simp] theorem setInput_out (ts : List Str) (s : State) : (setInput ts s).out = s.out := rfl
@[simp] theorem setInput_input (ts : List Str) (s : State) : (setInput ts s).input = ts := rfl

/-! ## setInWait -/

@[simp] theorem setInWait_segCount (b : Bool) (s : State) : (setInWait b s).segCount = s.segCount := rfl
@[simp] theorem setInWait_dsDepth (b : Bool) (s : State) : (setInWait b s).dsDepth = s.dsDepth := rfl
@[simp] theorem setInWait_rsDepth (b : Bool) (s : State) : (setInWait b s).rsDepth = s.rsDepth := rfl
@[simp] theorem setInWait_mem (b : Bool) (s : State) : (setInWait b s).mem = s.mem := rfl
@[simp] theorem setInWait_pc (b : Bool) (s : State) : (setInWait b s).pc = s.pc := rfl
@[simp] theorem setInWait_ds (b : Bool) (s : State) : (setInWait b s).ds = s.ds := rfl
@[simp] theorem setInWait_rs (b : Bool) (s : State) : (setInWait b s).rs = s.rs := rfl
@[simp] theorem setInWait_running (b : Bool) (s : State) : (setInWait b s).running = s.running := rfl
@[simp] theorem setInWait_phase (b : Bool) (s : State) : (setInWait b s).phase = s.phase := rfl
@[simp] theorem setInWait_fault (b : Bool) (s : State) : (setInWait b s).fault = s.fault := rfl
@[simp] theorem setInWait_fillCnt (b : Bool) (s : State) : (setInWait b s).fillCnt = s.fillCnt := rfl
@[simp] theorem setInWait_inWait (b : Bool) (s : State) : (setInWait b s).inWait = b := rfl
@[simp] theorem setInWait_out (b : Bool) (s : State) : (setInWait b s).out = s.out := rfl
@[simp] theorem setInWait_input (b : Bool) (s : State) : (setInWait b s).input = s.input := rfl

/-! ## emit -/

@[simp] theorem emit_segCount (str : Str) (s : State) : (emit str s).segCount = s.segCount := rfl
@[simp] theorem emit_dsDepth (str : Str) (s : State) : (emit str s).dsDepth = s.dsDepth := rfl
@[simp] theorem emit_rsDepth (str : Str) (s : State) : (emit str s).rsDepth = s.rsDepth := rfl
@[simp] theorem emit_mem (str : Str) (s : State) : (emit str s).mem = s.mem := rfl
@[simp] theorem emit_pc (str : Str) (s : State) : (emit str s).pc = s.pc := rfl
@[simp] theorem emit_ds (str : Str) (s : State) : (emit str s).ds = s.ds := rfl
@[simp] theorem emit_rs (str : Str) (s : State) : (emit str s).rs = s.rs := rfl
@[simp] theorem emit_running (str : Str) (s : State) : (emit str s).running = s.running := rfl
@[simp] theorem emit_phase (str : Str) (s : State) : (emit str s).phase = s.phase := rfl
@[simp] theorem emit_fault (str : Str) (s : State) : (emit str s).fault = s.fault := rfl
@[simp] theorem emit_fillCnt (str : Str) (s : State) : (emit str s).fillCnt = s.fillCnt := rfl
@[simp] theorem emit_inWait (str : Str) (s : State) : (emit str s).inWait = s.inWait := rfl
@[simp] theorem emit_out (str : Str) (s : State) : (emit str s).out = s.out ++ [str] := rfl
@[simp] theorem emit_input (str : Str) (s : State) : (emit str s).input = s.input := rfl

/-! ## returnDs -/

@[simp] theorem returnDs_segCount (w : Word) (s : State) : (returnDs w s).segCount = s.segCount := rfl
@[simp] theorem returnDs_dsDepth (w : Word) (s : State) : (returnDs w s).dsDepth = s.dsDepth := rfl
@[simp] theorem returnDs_rsDepth (w : Word) (s : State) : (returnDs w s).rsDepth = s.rsDepth := rfl
@[simp] theorem returnDs_mem (w : Word) (s : State) : (returnDs w s).mem = s.mem := rfl
@[simp] theorem returnDs_pc (w : Word) (s : State) : (returnDs w s).pc = s.pc := rfl
@[simp] theorem returnDs_ds (w : Word) (s : State) : (returnDs w s).ds = w :: s.ds := rfl
@[simp] theorem returnDs_rs (w : Word) (s : State) : (returnDs w s).rs = s.rs := rfl
@[simp] theorem returnDs_running (w : Word) (s : State) : (returnDs w s).running = s.running := rfl
@[simp] theorem returnDs_phase (w : Word) (s : State) : (returnDs w s).phase = s.phase := rfl
@[simp] theorem returnDs_fault (w : Word) (s : State) : (returnDs w s).fault = s.fault := rfl
@[simp] theorem returnDs_fillCnt (w : Word) (s : State) : (returnDs w s).fillCnt = s.fillCnt := rfl
@[simp] theorem returnDs_inWait (w : Word) (s : State) : (returnDs w s).inWait = s.inWait := rfl
@[simp] theorem returnDs_out (w : Word) (s : State) : (returnDs w s).out = s.out := rfl
@[simp] theorem returnDs_input (w : Word) (s : State) : (returnDs w s).input = s.input := rfl

/-! ## stopRunning -/

@[simp] theorem stopRunning_segCount (s : State) : (stopRunning s).segCount = s.segCount := rfl
@[simp] theorem stopRunning_dsDepth (s : State) : (stopRunning s).dsDepth = s.dsDepth := rfl
@[simp] theorem stopRunning_rsDepth (s : State) : (stopRunning s).rsDepth = s.rsDepth := rfl
@[simp] theorem stopRunning_mem (s : State) : (stopRunning s).mem = s.mem := rfl
@[simp] theorem stopRunning_pc (s : State) : (stopRunning s).pc = s.pc := rfl
@[simp] theorem stopRunning_ds (s : State) : (stopRunning s).ds = s.ds := rfl
@[simp] theorem stopRunning_rs (s : State) : (stopRunning s).rs = s.rs := rfl
@[simp] theorem stopRunning_running (s : State) : (stopRunning s).running = false := rfl
@[simp] theorem stopRunning_phase (s : State) : (stopRunning s).phase = .halted := rfl
@[simp] theorem stopRunning_fault (s : State) : (stopRunning s).fault = s.fault := rfl
@[simp] theorem stopRunning_fillCnt (s : State) : (stopRunning s).fillCnt = s.fillCnt := rfl
@[simp] theorem stopRunning_inWait (s : State) : (stopRunning s).inWait = s.inWait := rfl
@[simp] theorem stopRunning_out (s : State) : (stopRunning s).out = s.out := rfl
@[simp] theorem stopRunning_input (s : State) : (stopRunning s).input = s.input := rfl

/-! ## startRunning -/

@[simp] theorem startRunning_segCount (s : State) : (startRunning s).segCount = s.segCount := rfl
@[simp] theorem startRunning_dsDepth (s : State) : (startRunning s).dsDepth = s.dsDepth := rfl
@[simp] theorem startRunning_rsDepth (s : State) : (startRunning s).rsDepth = s.rsDepth := rfl
@[simp] theorem startRunning_mem (s : State) : (startRunning s).mem = s.mem := rfl
@[simp] theorem startRunning_pc (s : State) : (startRunning s).pc = s.pc := rfl
@[simp] theorem startRunning_ds (s : State) : (startRunning s).ds = s.ds := rfl
@[simp] theorem startRunning_rs (s : State) : (startRunning s).rs = s.rs := rfl
@[simp] theorem startRunning_running (s : State) : (startRunning s).running = true := rfl
@[simp] theorem startRunning_phase (s : State) : (startRunning s).phase = .running := rfl
@[simp] theorem startRunning_fault (s : State) : (startRunning s).fault = none := rfl
@[simp] theorem startRunning_fillCnt (s : State) : (startRunning s).fillCnt = s.fillCnt := rfl
@[simp] theorem startRunning_inWait (s : State) : (startRunning s).inWait = false := rfl
@[simp] theorem startRunning_out (s : State) : (startRunning s).out = s.out := rfl
@[simp] theorem startRunning_input (s : State) : (startRunning s).input = s.input := rfl

/-! ## raise -/

@[simp] theorem raise_segCount (k : FaultKind) (op : Option (BitVec 8)) (s : State) : (raise k op s).segCount = s.segCount := rfl
@[simp] theorem raise_dsDepth (k : FaultKind) (op : Option (BitVec 8)) (s : State) : (raise k op s).dsDepth = s.dsDepth := rfl
@[simp] theorem raise_rsDepth (k : FaultKind) (op : Option (BitVec 8)) (s : State) : (raise k op s).rsDepth = s.rsDepth := rfl
@[simp] theorem raise_mem (k : FaultKind) (op : Option (BitVec 8)) (s : State) : (raise k op s).mem = s.mem := rfl
@[simp] theorem raise_pc (k : FaultKind) (op : Option (BitVec 8)) (s : State) : (raise k op s).pc = s.pc := rfl
@[simp] theorem raise_ds (k : FaultKind) (op : Option (BitVec 8)) (s : State) : (raise k op s).ds = s.ds := rfl
@[simp] theorem raise_rs (k : FaultKind) (op : Option (BitVec 8)) (s : State) : (raise k op s).rs = s.rs := rfl
@[simp] theorem raise_running (k : FaultKind) (op : Option (BitVec 8)) (s : State) : (raise k op s).running = false := rfl
@[simp] theorem raise_phase (k : FaultKind) (op : Option (BitVec 8)) (s : State) : (raise k op s).phase = .faulted := rfl
@[simp] theorem raise_fault (k : FaultKind) (op : Option (BitVec 8)) (s : State) : (raise k op s).fault = some ⟨k, op, s.pc⟩ := rfl
@[simp] theorem raise_fillCnt (k : FaultKind) (op : Option (BitVec 8)) (s : State) : (raise k op s).fillCnt = s.fillCnt := rfl
@[simp] theorem raise_inWait (k : FaultKind) (op : Option (BitVec 8)) (s : State) : (raise k op s).inWait = s.inWait := rfl
@[simp] theorem raise_out (k : FaultKind) (op : Option (BitVec 8)) (s : State) : (raise k op s).out = s.out := rfl
@[simp] theorem raise_input (k : FaultKind) (op : Option (BitVec 8)) (s : State) : (raise k op s).input = s.input := rfl

end Sys2Proof.Machine
end

