-- ==== Sys2Proof/Laws/Memory.lean ====
section
/-! SUPPORT. What the memory operations and the address operations do. -/

namespace Sys2Proof.Machine

/-! ## Memory as data -/

@[simp] theorem Memory.read_nil (k : Nat) : Memory.read [] k = blankCell := rfl

/-- A read of the cell just written gives the Word written. -/
theorem Memory.read_write_same (m : Memory) (k : Nat) (w : Word) (h : m.wf) : (m.write k w).read k = w := by
  induction m with
  | nil =>
    by_cases hw : w = blankCell
    · simp [Memory.write, hw]
    · simp [Memory.write, hw, Memory.read]
  | cons e m ih =>
    have hm : Memory.wf m := ⟨h.1.of_cons, fun x hx => h.2 x (List.mem_cons_of_mem _ hx)⟩
    have hlt : ∀ x ∈ m, e.1 < x.1 := (List.pairwise_cons.mp h.1).1
    have habs : ∀ (l : Memory) (j : Nat), (∀ x ∈ l, j < x.1) → l.read j = blankCell := by
      intro l j hl
      induction l with
      | nil => rfl
      | cons x l ihl =>
        have := hl x (by simp)
        have hne : x.1 ≠ j := by omega
        simp only [Memory.read, hne, if_false]
        exact ihl fun y hy => hl y (List.mem_cons_of_mem _ hy)
    simp only [Memory.write]
    split
    · rename_i hk
      split
      · rename_i hw
        rw [hw]
        refine habs (e :: m) k fun x hx => ?_
        rcases List.mem_cons.mp hx with rfl | hx
        · exact hk
        · have := hlt x hx; omega
      · simp [Memory.read]
    · split
      · rename_i hk
        split
        · rename_i hw
          rw [hw]
          exact habs m k fun x hx => by have := hlt x hx; omega
        · simp [Memory.read]
      · rename_i hk
        have : e.1 ≠ k := fun h => hk h.symm
        simp only [Memory.read, this, if_false]
        exact ih hm

/-- A write leaves every other cell alone. -/
theorem Memory.read_write_ne (m : Memory) (k j : Nat) (w : Word) (h : j ≠ k) :
    (m.write k w).read j = m.read j := by
  induction m with
  | nil =>
    have : k ≠ j := fun e => h e.symm
    by_cases hw : w = blankCell <;> simp [Memory.write, hw, Memory.read, this]
  | cons e m ih =>
    have hkj : k ≠ j := fun e => h e.symm
    simp only [Memory.write]
    split
    · split
      · rfl
      · simp [Memory.read, hkj]
    · split
      · rename_i hk
        have : e.1 ≠ j := by omega
        split <;> simp [Memory.read, hkj, this]
      · simp [Memory.read, ih]

/-- Every listed cell after a write was listed before or is the cell written. -/
theorem Memory.mem_write {m : Memory} {k : Nat} {w : Word} {e : Nat × Word} (h : e ∈ m.write k w) :
    e ∈ m ∨ (e = (k, w) ∧ w ≠ blankCell) := by
  induction m with
  | nil =>
    by_cases hw : w = blankCell
    · simp [Memory.write, hw] at h
    · simp [Memory.write, hw] at h; exact .inr ⟨h, hw⟩
  | cons x m ih =>
    simp only [Memory.write] at h
    split at h
    · split at h
      · exact .inl h
      · rename_i hw
        rcases List.mem_cons.mp h with h | h
        · exact .inr ⟨h, hw⟩
        · exact .inl h
    · split at h
      · split at h
        · exact .inl (List.mem_cons_of_mem _ h)
        · rename_i hw
          rcases List.mem_cons.mp h with h | h
          · exact .inr ⟨h, hw⟩
          · exact .inl (List.mem_cons_of_mem _ h)
      · rcases List.mem_cons.mp h with rfl | h
        · exact .inl (by simp)
        · exact (ih h).imp_left (List.mem_cons_of_mem _)

/-- A write keeps the canonical form. -/
theorem Memory.write_wf {m : Memory} (k : Nat) (w : Word) (h : m.wf) : (m.write k w).wf := by
  refine ⟨?_, fun e he => ?_⟩
  · induction m with
    | nil => by_cases hw : w = blankCell <;> simp [Memory.write, hw]
    | cons x m ih =>
      obtain ⟨hx, hp⟩ := List.pairwise_cons.mp h.1
      have hm : Memory.wf m := ⟨hp, fun y hy => h.2 y (List.mem_cons_of_mem _ hy)⟩
      simp only [Memory.write]
      split
      · rename_i hk
        split
        · exact h.1
        · refine List.pairwise_cons.mpr ⟨fun y hy => ?_, h.1⟩
          rcases List.mem_cons.mp hy with rfl | hy
          · exact hk
          · have := hx y hy; simp only; omega
      · split
        · rename_i hk
          split
          · exact hp
          · exact List.pairwise_cons.mpr ⟨fun y hy => by have := hx y hy; simp only; omega, hp⟩
        · refine List.pairwise_cons.mpr ⟨fun y hy => ?_, ih hm⟩
          rcases Memory.mem_write hy with hy | ⟨rfl, -⟩
          · exact hx y hy
          · simp only; omega
  · rcases Memory.mem_write he with he | ⟨rfl, hw⟩
    · exact h.2 e he
    · exact hw

/-- A write inside the address space lists no cell outside it. -/
theorem Memory.write_inside {m : Memory} {k n : Nat} (w : Word) (h : ∀ e ∈ m, e.1 < n) (hk : k < n) :
    ∀ e ∈ m.write k w, e.1 < n := fun e he => by
  rcases Memory.mem_write he with he | ⟨rfl, -⟩
  · exact h e he
  · exact hk

/-- Reset memory has the canonical form. -/
theorem reset_mem_wf : State.reset.mem.wf := by decide

/-! ## Addresses -/

/-- A valid address has a flat number inside the address space. -/
theorem toFlat_lt {n : Nat} {a : Address} (h : valid n a) : toFlat a < capacity n := by
  unfold toFlat capacity
  have h1 := h.1
  have h2 := h.2
  simp only [Config.segmentSize] at *
  omega

/-- Addresses inside a segment are told apart by their flat numbers. -/
theorem toFlat_inj {a b : Address} (ha : a.offset.toNat < 1024) (hb : b.offset.toNat < 1024)
    (h : toFlat a = toFlat b) : a = b := by
  unfold toFlat at h
  obtain ⟨s, o⟩ := a
  obtain ⟨s', o'⟩ := b
  simp only [Config.segmentSize] at *
  have h1 : s.toNat = s'.toNat := by omega
  have h2 : o.toNat = o'.toNat := by omega
  rw [BitVec.eq_of_toNat_eq h1, BitVec.eq_of_toNat_eq h2]

/-- The successor of a valid address is valid (40_fetch_decode_execute.md R108). -/
theorem increment_valid {n : Nat} {a : Address} (h : valid n a) :
    valid n (increment n a) := by
  obtain ⟨h1, h2⟩ := h
  obtain ⟨s, o⟩ := a
  simp only [Config.segmentSize] at *
  unfold increment
  simp only [Config.segmentSize]
  split
  · split
    · exact ⟨by simp; omega, by simp⟩
    · refine ⟨?_, by simp⟩
      simp only [BitVec.toNat_add, show (1 : BitVec 8).toNat = 1 from rfl]
      omega
  · refine ⟨h1, ?_⟩
    simp only [BitVec.toNat_add, show (1 : BitVec 16).toNat = 1 from rfl, Config.segmentSize]
    omega

/-- The flat number of the successor (40_fetch_decode_execute.md R108): one more, or 0 after the last cell. -/
theorem toFlat_increment {n : Nat} {a : Address} (hn : n ≤ Config.maxSegments) (h : valid n a) :
    toFlat (increment n a) = if toFlat a + 1 = capacity n then 0 else toFlat a + 1 := by
  obtain ⟨h1, h2⟩ := h
  obtain ⟨s, o⟩ := a
  have e8 : (1 : BitVec 8).toNat = 1 := rfl
  have e16 : (1 : BitVec 16).toNat = 1 := rfl
  simp only [Config.maxSegments, Config.segmentSize] at *
  unfold increment toFlat capacity
  simp only [Config.segmentSize]
  split
  · split
    · rw [if_pos (by omega)]; rfl
    · rw [if_neg (by omega)]
      simp only [BitVec.toNat_add, e8]
      have : (0 : BitVec 16).toNat = 0 := rfl
      omega
  · rw [if_neg (by omega)]
    simp only [BitVec.toNat_add, e16]
    omega

/-- The offset of an operand's address is a 12-bit number. -/
theorem opaddr_offset_bound (u : BitVec 16) : ((u.extractLsb' 0 12).setWidth 16).toNat < 4096 := by
  rw [BitVec.toNat_setWidth]
  have := (u.extractLsb' 0 12).isLt
  omega

end Sys2Proof.Machine
end

