-- ==== Sys2Proof/Laws/Ops.lean ====
section
/-! SUPPORT. One lemma per shared operation and outcome: what it answers, and when it names a fault. -/

namespace Sys2Proof.Machine

/-! ## Room on a stack -/

theorem hasRoom_ds_iff (s : State) : hasRoom s.dsDepth s.ds.length = true ↔ RoomDs s := by
  unfold RoomDs hasRoom
  cases s.dsDepth <;> simp

theorem hasRoom_rs_iff (s : State) : hasRoom s.rsDepth s.rs.length = true ↔ RoomRs s := by
  unfold RoomRs hasRoom
  cases s.rsDepth <;> simp

theorem hasRoom_ds_false_iff (s : State) : hasRoom s.dsDepth s.ds.length = false ↔ FullDs s := by
  unfold FullDs hasRoom
  cases s.dsDepth <;> simp

theorem hasRoom_rs_false_iff (s : State) : hasRoom s.rsDepth s.rs.length = false ↔ FullRs s := by
  unfold FullRs hasRoom
  cases s.rsDepth <;> simp

/-- A push with room stays within the capacity. -/
theorem withinCapacity_succ {c : Capacity} {d : Nat} (h : hasRoom c d = true) : withinCapacity c (d + 1) = true := by
  cases c <;> simp_all [hasRoom, withinCapacity]

/-- A shallower stack stays within the capacity. -/
theorem withinCapacity_mono {c : Capacity} {d e : Nat} (h : withinCapacity c e = true) (hde : d ≤ e) :
    withinCapacity c d = true := by
  cases c <;> simp_all [withinCapacity]
  omega

/-! ## Memory primitives -/

theorem memRead_ok {a : Address} {s : State} (h : valid s.segCount a) :
    memRead a s = .ok (s.mem.read (toFlat a)) := if_pos h

theorem memRead_error {a : Address} {s : State} (h : ¬ valid s.segCount a) : memRead a s = .error .outOfBounds :=
  if_neg h

theorem memWrite_ok {a : Address} {w : Word} {s : State} (h : valid s.segCount a) :
    memWrite a w s = .ok (setMem (s.mem.write (toFlat a) w) s) := if_pos h

theorem memWrite_error {a : Address} {w : Word} {s : State} (h : ¬ valid s.segCount a) :
    memWrite a w s = .error .outOfBounds := if_neg h

theorem checkTarget_ok {t : Address} {s : State} (h : valid s.segCount t) : checkTarget t s = .ok t := if_pos h

theorem checkTarget_error {t : Address} {s : State} (h : ¬ valid s.segCount t) :
    checkTarget t s = .error .outOfBounds := if_neg h

theorem fetchCell_of_valid {s : State} (h : valid s.segCount s.pc) : fetchCell s = some (cellAtCursor s) := by
  simp [fetchCell, memRead_ok h, cellAtCursor]

theorem fetchCell_of_invalid {s : State} (h : ¬ valid s.segCount s.pc) : fetchCell s = none := by
  simp [fetchCell, memRead_error h]

/-! ## Stack primitives -/

theorem popDs_nil {s : State} (h : s.ds = []) : popDs s = .error .stackUnderflow := by simp [popDs, h]

theorem popDs_cons {s : State} {w : Word} {rest : List Word} (h : s.ds = w :: rest) :
    popDs s = .ok (w, setDs rest s) := by simp [popDs, h]

theorem popRs_nil {s : State} (h : s.rs = []) : popRs s = .error .stackUnderflow := by simp [popRs, h]

theorem popRs_cons {s : State} {w : Word} {rest : List Word} (h : s.rs = w :: rest) :
    popRs s = .ok (w, setRs rest s) := by simp [popRs, h]

theorem peekDs_ok {s : State} {k : Nat} {w : Word} (h : s.ds[k]? = some w) : peekDs k s = .ok w := by
  simp [peekDs, h]

theorem peekDs_error {s : State} {k : Nat} (h : s.ds.length ≤ k) : peekDs k s = .error .stackUnderflow := by
  simp [peekDs, List.getElem?_eq_none h]

theorem peekRs_ok {s : State} {k : Nat} {w : Word} (h : s.rs[k]? = some w) : peekRs k s = .ok w := by
  simp [peekRs, h]

theorem peekRs_error {s : State} {k : Nat} (h : s.rs.length ≤ k) : peekRs k s = .error .stackUnderflow := by
  simp [peekRs, List.getElem?_eq_none h]

theorem checkRoomDs_ok {s : State} (h : hasRoom s.dsDepth s.ds.length = true) : checkRoomDs s = .ok () := if_pos h

theorem checkRoomDs_error {s : State} (h : hasRoom s.dsDepth s.ds.length = false) :
    checkRoomDs s = .error .stackOverflow := by simp [checkRoomDs, h]

theorem pushDs_ok {s : State} (w : Word) (h : hasRoom s.dsDepth s.ds.length = true) :
    pushDs w s = .ok (returnDs w s) := by simp [pushDs, checkRoomDs_ok h]

theorem pushDs_error {s : State} (w : Word) (h : hasRoom s.dsDepth s.ds.length = false) :
    pushDs w s = .error .stackOverflow := by simp [pushDs, checkRoomDs_error h]

theorem pushRs_ok {s : State} (w : Word) (h : hasRoom s.rsDepth s.rs.length = true) :
    pushRs w s = .ok (setRs (w :: s.rs) s) := by simp [pushRs, h]

theorem pushRs_error {s : State} (w : Word) (h : hasRoom s.rsDepth s.rs.length = false) :
    pushRs w s = .error .stackOverflow := by simp [pushRs, h]

theorem readToken_none {s : State} (h : s.input = []) : readToken s = none := by simp [readToken, h]

theorem readToken_some {s : State} {t : Str} {rest : List Str} (h : s.input = t :: rest) :
    readToken s = some (t, setInput rest s) := by simp [readToken, h]

/-! ## The end of a step -/

theorem settle_ok (op : BitVec 8) (s t : State) (n : Next) : settle op s (.ok (t, n)) = .next (advance n t) := rfl

theorem settle_error (op : BitVec 8) (s : State) (k : FaultKind) :
    settle op s (.error k) = .next (raise k (some op) s) := rfl

/-- A raised fault is the state of `faultedFrom`. -/
theorem raise_eq_faultedFrom (k : FaultKind) (op : Option (BitVec 8)) (s : State) : raise k op s = faultedFrom k op s :=
  rfl

/-- Fault entry is what `Raises` asks for. -/
theorem raises_of_eq {r : Result} {k : FaultKind} {op : BitVec 8} {s : State}
    (h : r = .next (raise k (some op) s)) : Raises r k op s := ⟨_, h, rfl, rfl⟩

end Sys2Proof.Machine
end

