-- ==== Sys2Proof/Laws/Exec.lean ====
section
/-! SUPPORT. Everything an instruction and a step can do, said once: each either enters a fault from the state before it,
or completes as one of the cases of `Completed`. -/

namespace Sys2Proof.Machine

/-- The ways in which instruction `i` completes from `s`, with the state it leaves. -/
inductive Completed (s : State) : Instr → State → Prop where
  | nop (o) : Completed s (.nop o) (setPc (nextCell s) s)
  | store (u v rest) (hd : s.ds = v :: rest) (hv : valid s.segCount (opaddr u)) :
      Completed s (.store (some u)) { s with
        ds := rest, mem := s.mem.write (toFlat (opaddr u)) v, pc := nextCell s }
  | add (o a b rest) (hd : s.ds = .lit a :: .lit b :: rest) :
      Completed s (.add o) { s with ds := .lit (b + a) :: rest, pc := nextCell s }
  | sub (o a b rest) (hd : s.ds = .lit a :: .lit b :: rest) :
      Completed s (.sub o) { s with ds := .lit (b - a) :: rest, pc := nextCell s }
  | rstore (o v rest) (hd : s.ds = v :: rest) (hr : hasRoom s.rsDepth s.rs.length = true) :
      Completed s (.rstore o) { s with ds := rest, rs := v :: s.rs, pc := nextCell s }
  | fetch (u) (hv : valid s.segCount (opaddr u)) (hr : hasRoom s.dsDepth s.ds.length = true) :
      Completed s (.fetch (some u)) { s with ds := s.mem.read (toFlat (opaddr u)) :: s.ds, pc := nextCell s }
  | and (o a b rest) (hd : s.ds = .lit a :: .lit b :: rest) :
      Completed s (.and o) { s with ds := .lit (b &&& a) :: rest, pc := nextCell s }
  | drop (o x rest) (hd : s.ds = x :: rest) : Completed s (.drop o) { s with ds := rest, pc := nextCell s }
  | dup (o x rest) (hd : s.ds = x :: rest) (hr : hasRoom s.dsDepth s.ds.length = true) :
      Completed s (.dup o) { s with ds := x :: s.ds, pc := nextCell s }
  | or (o a b rest) (hd : s.ds = .lit a :: .lit b :: rest) :
      Completed s (.or o) { s with ds := .lit (b ||| a) :: rest, pc := nextCell s }
  | copyOver (o y x rest) (hd : s.ds = y :: x :: rest) (hr : hasRoom s.dsDepth s.ds.length = true) :
      Completed s (.copyOver o) { s with ds := x :: s.ds, pc := nextCell s }
  | rfetch (o v rest) (hd : s.rs = v :: rest) (hr : hasRoom s.dsDepth s.ds.length = true) :
      Completed s (.rfetch o) { s with ds := v :: s.ds, rs := rest, pc := nextCell s }
  | swap (o a b rest) (hd : s.ds = a :: b :: rest) :
      Completed s (.swap o) { s with ds := b :: a :: rest, pc := nextCell s }
  | xor (o a b rest) (hd : s.ds = .lit a :: .lit b :: rest) :
      Completed s (.xor o) { s with ds := .lit (b ^^^ a) :: rest, pc := nextCell s }
  | branchTaken (u v rest) (hd : s.ds = v :: rest) (ht : truthy v = true) (hv : valid s.segCount (opaddr u)) :
      Completed s (.branchIf (some u)) { s with ds := rest, pc := opaddr u }
  | branchPassed (u v rest) (hd : s.ds = v :: rest) (ht : truthy v = false) :
      Completed s (.branchIf (some u)) { s with ds := rest, pc := nextCell s }
  | call (u) (hv : valid s.segCount (opaddr u)) : Completed s (.call (some u)) { s with pc := opaddr u }
  | exit (o) : Completed s (.exit o) { s with running := false, phase := .halted, pc := nextCell s }
  | lit (o) (hv : valid s.segCount (nextCell s)) (hr : hasRoom s.dsDepth s.ds.length = true) :
      Completed s (.lit o) { s with
        ds := s.mem.read (toFlat (nextCell s)) :: s.ds, pc := increment s.segCount (nextCell s) }
  | cout (o x rest) (hd : s.ds = x :: rest) :
      Completed s (.cout o) { s with ds := rest, out := s.out ++ [render x], pc := nextCell s }
  | cinHolds (o) (hi : s.input = []) (hr : hasRoom s.dsDepth s.ds.length = true) :
      Completed s (.cin o) { s with inWait := true }
  | cinReads (o t rest) (hi : s.input = t :: rest) (hr : hasRoom s.dsDepth s.ds.length = true) :
      Completed s (.cin o) { s with
        ds := cinConvert t :: s.ds, input := rest, inWait := false, pc := nextCell s }
  | strlit (f) : Completed s (.strlit f) (setPc (nextCell s) s)
  | sout (u str) (hv : valid s.segCount (opaddr u)) (ht : s.mem.read (toFlat (opaddr u)) = .txt str) :
      Completed s (.sout (some u)) { s with out := s.out ++ [str], pc := nextCell s }

/-- The outcome of an instruction: fault entry from the state before it, or a completion. -/
def ExecCases (i : Instr) (s : State) (r : Result) : Prop :=
  (∃ k, r = .next (raise k (some i.opcode) s)) ∨ ∃ t, r = .next t ∧ Completed s i t

/-- The two-operand shape: a fault, or two Literals replaced by the result. -/
theorem binop_cases (f : BitVec 64 → BitVec 64 → BitVec 64) (s : State) :
    (∃ k, binop f s = .error k) ∨ ∃ a b rest, s.ds = .lit a :: .lit b :: rest ∧
      binop f s = .ok ({ s with ds := .lit (f b a) :: rest }, .seq) := by
  unfold binop
  match hd : s.ds with
  | [] => exact .inl ⟨_, by rw [popDs_nil hd]; rfl⟩
  | [a] => exact .inl ⟨.stackUnderflow, by rw [popDs_cons hd]; rfl⟩
  | a :: b :: rest =>
    rw [popDs_cons hd]
    match a, b with
    | .lit x, .lit y => exact .inr ⟨x, y, rest, rfl, rfl⟩
    | .lit x, .ins _ _ => exact .inl ⟨_, rfl⟩
    | .lit x, .txt _ => exact .inl ⟨_, rfl⟩
    | .ins _ _, y => exact .inl ⟨.operandType, by cases y <;> rfl⟩
    | .txt _, y => exact .inl ⟨.operandType, by cases y <;> rfl⟩

/-- Everything an instruction can do. -/
theorem exec_cases (i : Instr) (s : State) : ExecCases i s (exec i s) := by
  have hroom : hasRoom s.dsDepth s.ds.length = true ∨ hasRoom s.dsDepth s.ds.length = false := by
    cases hasRoom s.dsDepth s.ds.length <;> simp
  cases i with
  | nop o => exact .inr ⟨_, rfl, .nop o⟩
  | exit o => exact .inr ⟨_, rfl, .exit o⟩
  | strlit f => exact .inr ⟨_, rfl, .strlit f⟩
  | add o =>
    rcases binop_cases (fun b a => b + a) s with ⟨k, hk⟩ | ⟨a, b, rest, hd, hb⟩
    · exact .inl ⟨k, by show settle _ _ _ = _; rw [hk]; rfl⟩
    · exact .inr ⟨_, by show settle _ _ _ = _; rw [hb]; rfl, .add o a b rest hd⟩
  | sub o =>
    rcases binop_cases (fun b a => b - a) s with ⟨k, hk⟩ | ⟨a, b, rest, hd, hb⟩
    · exact .inl ⟨k, by show settle _ _ _ = _; rw [hk]; rfl⟩
    · exact .inr ⟨_, by show settle _ _ _ = _; rw [hb]; rfl, .sub o a b rest hd⟩
  | and o =>
    rcases binop_cases (fun b a => b &&& a) s with ⟨k, hk⟩ | ⟨a, b, rest, hd, hb⟩
    · exact .inl ⟨k, by show settle _ _ _ = _; rw [hk]; rfl⟩
    · exact .inr ⟨_, by show settle _ _ _ = _; rw [hb]; rfl, .and o a b rest hd⟩
  | or o =>
    rcases binop_cases (fun b a => b ||| a) s with ⟨k, hk⟩ | ⟨a, b, rest, hd, hb⟩
    · exact .inl ⟨k, by show settle _ _ _ = _; rw [hk]; rfl⟩
    · exact .inr ⟨_, by show settle _ _ _ = _; rw [hb]; rfl, .or o a b rest hd⟩
  | xor o =>
    rcases binop_cases (fun b a => b ^^^ a) s with ⟨k, hk⟩ | ⟨a, b, rest, hd, hb⟩
    · exact .inl ⟨k, by show settle _ _ _ = _; rw [hk]; rfl⟩
    · exact .inr ⟨_, by show settle _ _ _ = _; rw [hb]; rfl, .xor o a b rest hd⟩
  | drop o =>
    match hd : s.ds with
    | [] => exact .inl ⟨.stackUnderflow, by simp only [exec, execDrop]; rw [popDs_nil hd]; rfl⟩
    | x :: rest => exact .inr ⟨_, by simp only [exec, execDrop]; rw [popDs_cons hd]; rfl, .drop o x rest hd⟩
  | dup o =>
    match hd : s.ds with
    | [] => exact .inl ⟨.stackUnderflow, by
        simp only [exec, execDup]; rw [peekDs_error (by simp [hd])]; rfl⟩
    | x :: rest =>
      have hx : peekDs 0 s = .ok x := peekDs_ok (by simp [hd])
      rcases hroom with hr | hr
      · exact .inr ⟨_, by simp only [exec, execDup]; rw [hx]; simp only [bind, Except.bind]; rw [pushDs_ok x hr]; rfl,
          .dup o x rest hd hr⟩
      · exact .inl ⟨.stackOverflow, by
          simp only [exec, execDup]; rw [hx]; simp only [bind, Except.bind]; rw [pushDs_error x hr]; rfl⟩
  | copyOver o =>
    match hd : s.ds with
    | [] => exact .inl ⟨.stackUnderflow, by
        simp only [exec, execOver]; rw [peekDs_error (by simp [hd])]; rfl⟩
    | [y] => exact .inl ⟨.stackUnderflow, by
        simp only [exec, execOver]; rw [peekDs_error (by simp [hd])]; rfl⟩
    | y :: x :: rest =>
      have hx : peekDs 1 s = .ok x := peekDs_ok (by simp [hd])
      rcases hroom with hr | hr
      · exact .inr ⟨_, by simp only [exec, execOver]; rw [hx]; simp only [bind, Except.bind]; rw [pushDs_ok x hr]; rfl,
          .copyOver o y x rest hd hr⟩
      · exact .inl ⟨.stackOverflow, by
          simp only [exec, execOver]; rw [hx]; simp only [bind, Except.bind]; rw [pushDs_error x hr]; rfl⟩
  | swap o =>
    match hd : s.ds with
    | [] => exact .inl ⟨.stackUnderflow, by simp only [exec, execSwap]; rw [popDs_nil hd]; rfl⟩
    | [a] => exact .inl ⟨.stackUnderflow, by simp only [exec, execSwap]; rw [popDs_cons hd]; rfl⟩
    | a :: b :: rest => exact .inr ⟨_, by simp only [exec, execSwap]; rw [popDs_cons hd]; rfl, .swap o a b rest hd⟩
  | rstore o =>
    match hd : s.ds with
    | [] => exact .inl ⟨.stackUnderflow, by simp only [exec, execRstore]; rw [popDs_nil hd]; rfl⟩
    | v :: rest =>
      cases hr : hasRoom s.rsDepth s.rs.length with
      | true => exact .inr ⟨_, by
          simp only [exec, execRstore]; rw [popDs_cons hd]; simp only [bind, Except.bind]
          rw [pushRs_ok (s := setDs rest s) v hr]; rfl, .rstore o v rest hd hr⟩
      | false => exact .inl ⟨.stackOverflow, by
          simp only [exec, execRstore]; rw [popDs_cons hd]; simp only [bind, Except.bind]
          rw [pushRs_error (s := setDs rest s) v hr]; rfl⟩
  | rfetch o =>
    match hd : s.rs with
    | [] => exact .inl ⟨.stackUnderflow, by simp only [exec, execRfetch]; rw [popRs_nil hd]; rfl⟩
    | v :: rest =>
      rcases hroom with hr | hr
      · exact .inr ⟨_, by
          simp only [exec, execRfetch]; rw [popRs_cons hd]; simp only [bind, Except.bind]
          rw [pushDs_ok (s := setRs rest s) v hr]; rfl, .rfetch o v rest hd hr⟩
      · exact .inl ⟨.stackOverflow, by
          simp only [exec, execRfetch]; rw [popRs_cons hd]; simp only [bind, Except.bind]
          rw [pushDs_error (s := setRs rest s) v hr]; rfl⟩
  | store operand =>
    match operand with
    | none => exact .inl ⟨.noOperand, rfl⟩
    | some u =>
      match hd : s.ds with
      | [] => exact .inl ⟨.stackUnderflow, by
          simp only [exec, execStore, requireOperand, bind, Except.bind]; rw [popDs_nil hd]; rfl⟩
      | v :: rest =>
        by_cases hv : valid s.segCount (opaddr u)
        · exact .inr ⟨_, by
            simp only [exec, execStore, requireOperand, bind, Except.bind]; rw [popDs_cons hd]
            simp only []; rw [memWrite_ok (s := setDs rest s) hv]; rfl, .store u v rest hd hv⟩
        · exact .inl ⟨.outOfBounds, by
            simp only [exec, execStore, requireOperand, bind, Except.bind]; rw [popDs_cons hd]
            simp only []; rw [memWrite_error (s := setDs rest s) hv]; rfl⟩
  | fetch operand =>
    match operand with
    | none => exact .inl ⟨.noOperand, rfl⟩
    | some u =>
      by_cases hv : valid s.segCount (opaddr u)
      · rcases hroom with hr | hr
        · exact .inr ⟨_, by
            simp only [exec, execFetch, requireOperand, bind, Except.bind]; rw [memRead_ok hv]
            simp only []; rw [pushDs_ok _ hr]; rfl, .fetch u hv hr⟩
        · exact .inl ⟨.stackOverflow, by
            simp only [exec, execFetch, requireOperand, bind, Except.bind]; rw [memRead_ok hv]
            simp only []; rw [pushDs_error _ hr]; rfl⟩
      · exact .inl ⟨.outOfBounds, by
          simp only [exec, execFetch, requireOperand, bind, Except.bind]; rw [memRead_error hv]; rfl⟩
  | lit o =>
    by_cases hv : valid s.segCount (nextCell s)
    · rcases hroom with hr | hr
      · exact .inr ⟨_, by
          simp only [exec, execLit, lookahead, bind, Except.bind]; rw [memRead_ok hv]
          simp only []; rw [pushDs_ok _ hr]; rfl, .lit o hv hr⟩
      · exact .inl ⟨.stackOverflow, by
          simp only [exec, execLit, lookahead, bind, Except.bind]; rw [memRead_ok hv]
          simp only []; rw [pushDs_error _ hr]; rfl⟩
    · exact .inl ⟨.outOfBounds, by
        simp only [exec, execLit, lookahead, bind, Except.bind]; rw [memRead_error hv]; rfl⟩
  | branchIf operand =>
    match operand with
    | none => exact .inl ⟨.noOperand, rfl⟩
    | some u =>
      match hd : s.ds with
      | [] => exact .inl ⟨.stackUnderflow, by
          simp only [exec, execBranchIf, requireOperand, bind, Except.bind]; rw [popDs_nil hd]; rfl⟩
      | v :: rest =>
        cases ht : truthy v with
        | false => exact .inr ⟨_, by
            simp only [exec, execBranchIf, requireOperand, bind, Except.bind]; rw [popDs_cons hd]
            simp only [ht]; rfl, .branchPassed u v rest hd ht⟩
        | true =>
          by_cases hv : valid s.segCount (opaddr u)
          · exact .inr ⟨_, by
              simp only [exec, execBranchIf, requireOperand, bind, Except.bind]; rw [popDs_cons hd]
              simp only [ht, if_true]; rw [checkTarget_ok (s := setDs rest s) hv]; rfl,
              .branchTaken u v rest hd ht hv⟩
          · exact .inl ⟨.outOfBounds, by
              simp only [exec, execBranchIf, requireOperand, bind, Except.bind]; rw [popDs_cons hd]
              simp only [ht, if_true]; rw [checkTarget_error (s := setDs rest s) hv]; rfl⟩
  | call operand =>
    match operand with
    | none => exact .inl ⟨.noOperand, rfl⟩
    | some u =>
      by_cases hv : valid s.segCount (opaddr u)
      · exact .inr ⟨_, by
          simp only [exec, execCall, requireOperand, bind, Except.bind]; rw [checkTarget_ok hv]; rfl, .call u hv⟩
      · exact .inl ⟨.outOfBounds, by
          simp only [exec, execCall, requireOperand, bind, Except.bind]; rw [checkTarget_error hv]; rfl⟩
  | cout o =>
    match hd : s.ds with
    | [] => exact .inl ⟨.stackUnderflow, by simp only [exec, execCout]; rw [popDs_nil hd]; rfl⟩
    | x :: rest => exact .inr ⟨_, by simp only [exec, execCout]; rw [popDs_cons hd]; rfl, .cout o x rest hd⟩
  | cin o =>
    rcases hroom with hr | hr
    · match hi : s.input with
      | [] => exact .inr ⟨_, by
          simp only [exec, execCin]; rw [checkRoomDs_ok hr, readToken_none hi]; rfl, .cinHolds o hi hr⟩
      | t :: rest => exact .inr ⟨_, by
          simp only [exec, execCin]; rw [checkRoomDs_ok hr, readToken_some hi]; rfl, .cinReads o t rest hi hr⟩
    · exact .inl ⟨.stackOverflow, by simp only [exec, execCin]; rw [checkRoomDs_error hr]; rfl⟩
  | sout operand =>
    match operand with
    | none => exact .inl ⟨.noOperand, rfl⟩
    | some u =>
      by_cases hv : valid s.segCount (opaddr u)
      · match ht : s.mem.read (toFlat (opaddr u)) with
        | .txt str => exact .inr ⟨_, by
            simp only [exec, execSout, requireOperand, bind, Except.bind]; rw [memRead_ok hv]
            simp only [ht, textOf]; rfl, .sout u str hv ht⟩
        | .lit _ => exact .inl ⟨.operandType, by
            simp only [exec, execSout, requireOperand, bind, Except.bind]; rw [memRead_ok hv]
            simp only [ht, textOf]; rfl⟩
        | .ins _ _ => exact .inl ⟨.operandType, by
            simp only [exec, execSout, requireOperand, bind, Except.bind]; rw [memRead_ok hv]
            simp only [ht, textOf]; rfl⟩
      · exact .inl ⟨.outOfBounds, by
          simp only [exec, execSout, requireOperand, bind, Except.bind]; rw [memRead_error hv]; rfl⟩

/-- Everything an instruction that answers a next state can have done. -/
theorem exec_next_cases {i : Instr} {s t : State} (h : exec i s = .next t) :
    (∃ k, t = raise k (some i.opcode) s) ∨ Completed s i t := by
  rcases exec_cases i s with ⟨k, hk⟩ | ⟨t', ht, hc⟩
  · rw [hk] at h
    exact .inl ⟨k, (Host.Outcome.next.inj h).symm⟩
  · rw [ht] at h
    exact .inr (Host.Outcome.next.inj h ▸ hc)

/-- An instruction always answers a next state. -/
theorem exec_answers_next (i : Instr) (s : State) : ∃ t, exec i s = .next t := by
  rcases exec_cases i s with ⟨k, hk⟩ | ⟨t, ht, -⟩
  · exact ⟨_, hk⟩
  · exact ⟨t, ht⟩

/-! ## One step -/

theorem step_stopped {s : State} (h : s.running = false) : step s = .next s := by simp [step, h, idle]

theorem step_decoded {s : State} {i : Instr} (hr : s.running = true) (hv : valid s.segCount s.pc)
    (hd : decode (cellAtCursor s) = .ok i) : step s = exec i s := by
  simp [step, hr, fetchCell_of_valid hv, hd]

theorem step_undecodable {s : State} {e : DecodeError} (hr : s.running = true) (hv : valid s.segCount s.pc)
    (hd : decode (cellAtCursor s) = .error e) :
    step s = .next (raise (decodeFaultKind e) (decodeOpcode (cellAtCursor s)) s) := by
  simp [step, hr, fetchCell_of_valid hv, hd, decodeFault]

theorem step_lost {s : State} (hr : s.running = true) (hv : ¬ valid s.segCount s.pc) :
    step s = .fault .cursorOutsideMemory := by
  simp [step, hr, fetchCell_of_invalid hv, cursorStop]

/-- Everything a step that answers a next state can have done. -/
theorem step_next_cases {s t : State} (h : step s = .next t) :
    (s.running = false ∧ t = s) ∨
    (s.running = true ∧ valid s.segCount s.pc ∧
      ((∃ e, decode (cellAtCursor s) = .error e ∧
          t = raise (decodeFaultKind e) (decodeOpcode (cellAtCursor s)) s) ∨
        ∃ i, decode (cellAtCursor s) = .ok i ∧
          ((∃ k, t = raise k (some i.opcode) s) ∨ Completed s i t))) := by
  cases hr : s.running with
  | false => exact .inl ⟨rfl, by rw [step_stopped hr] at h; exact (Host.Outcome.next.inj h).symm⟩
  | true =>
    by_cases hv : valid s.segCount s.pc
    · refine .inr ⟨rfl, hv, ?_⟩
      cases hd : decode (cellAtCursor s) with
      | error e =>
        rw [step_undecodable hr hv hd] at h
        exact .inl ⟨e, rfl, (Host.Outcome.next.inj h).symm⟩
      | ok i =>
        rw [step_decoded hr hv hd] at h
        exact .inr ⟨i, rfl, exec_next_cases h⟩
    · rw [step_lost hr hv] at h
      cases h

end Sys2Proof.Machine
end

