-- ==== Sys2Proof/Laws/PerInstr.lean ====
section
/-! SUPPORT. Lemmas per constructor of Instr. Family EncodedOpcode: the Word of an instruction carries its opcode, and
where the opcode is in REQ the instruction is well formed exactly when its Word carries an operand (spec/30_encoding.md
R83, R88, R94, R95). -/

namespace Sys2Proof

def Laws.EncodedOpcode.Statement (i : Instr) : Prop :=
  decodeOpcode (encode i) = some i.opcode ∧
  (requiresOperand i.opcode = true → (WellFormed i = true ↔ ∃ u, decodeOperand (encode i) = .ok u))

theorem Laws.EncodedOpcode.nop (o : Option (BitVec 16)) : Laws.EncodedOpcode.Statement (.nop o) :=
  ⟨rfl, fun h => by simp [requiresOperand, Instr.opcode] at h⟩

theorem Laws.EncodedOpcode.store (o : Option (BitVec 16)) : Laws.EncodedOpcode.Statement (.store o) :=
  ⟨rfl, fun _ => by cases o <;> simp [WellFormed, encode, decodeOperand]⟩

theorem Laws.EncodedOpcode.add (o : Option (BitVec 16)) : Laws.EncodedOpcode.Statement (.add o) :=
  ⟨rfl, fun h => by simp [requiresOperand, Instr.opcode] at h⟩

theorem Laws.EncodedOpcode.sub (o : Option (BitVec 16)) : Laws.EncodedOpcode.Statement (.sub o) :=
  ⟨rfl, fun h => by simp [requiresOperand, Instr.opcode] at h⟩

theorem Laws.EncodedOpcode.rstore (o : Option (BitVec 16)) : Laws.EncodedOpcode.Statement (.rstore o) :=
  ⟨rfl, fun h => by simp [requiresOperand, Instr.opcode] at h⟩

theorem Laws.EncodedOpcode.fetch (o : Option (BitVec 16)) : Laws.EncodedOpcode.Statement (.fetch o) :=
  ⟨rfl, fun _ => by cases o <;> simp [WellFormed, encode, decodeOperand]⟩

theorem Laws.EncodedOpcode.and (o : Option (BitVec 16)) : Laws.EncodedOpcode.Statement (.and o) :=
  ⟨rfl, fun h => by simp [requiresOperand, Instr.opcode] at h⟩

theorem Laws.EncodedOpcode.drop (o : Option (BitVec 16)) : Laws.EncodedOpcode.Statement (.drop o) :=
  ⟨rfl, fun h => by simp [requiresOperand, Instr.opcode] at h⟩

theorem Laws.EncodedOpcode.dup (o : Option (BitVec 16)) : Laws.EncodedOpcode.Statement (.dup o) :=
  ⟨rfl, fun h => by simp [requiresOperand, Instr.opcode] at h⟩

theorem Laws.EncodedOpcode.or (o : Option (BitVec 16)) : Laws.EncodedOpcode.Statement (.or o) :=
  ⟨rfl, fun h => by simp [requiresOperand, Instr.opcode] at h⟩

theorem Laws.EncodedOpcode.copyOver (o : Option (BitVec 16)) : Laws.EncodedOpcode.Statement (.copyOver o) :=
  ⟨rfl, fun h => by simp [requiresOperand, Instr.opcode] at h⟩

theorem Laws.EncodedOpcode.rfetch (o : Option (BitVec 16)) : Laws.EncodedOpcode.Statement (.rfetch o) :=
  ⟨rfl, fun h => by simp [requiresOperand, Instr.opcode] at h⟩

theorem Laws.EncodedOpcode.swap (o : Option (BitVec 16)) : Laws.EncodedOpcode.Statement (.swap o) :=
  ⟨rfl, fun h => by simp [requiresOperand, Instr.opcode] at h⟩

theorem Laws.EncodedOpcode.xor (o : Option (BitVec 16)) : Laws.EncodedOpcode.Statement (.xor o) :=
  ⟨rfl, fun h => by simp [requiresOperand, Instr.opcode] at h⟩

theorem Laws.EncodedOpcode.branchIf (o : Option (BitVec 16)) : Laws.EncodedOpcode.Statement (.branchIf o) :=
  ⟨rfl, fun _ => by cases o <;> simp [WellFormed, encode, decodeOperand]⟩

theorem Laws.EncodedOpcode.call (o : Option (BitVec 16)) : Laws.EncodedOpcode.Statement (.call o) :=
  ⟨rfl, fun _ => by cases o <;> simp [WellFormed, encode, decodeOperand]⟩

theorem Laws.EncodedOpcode.exit (o : Option (BitVec 16)) : Laws.EncodedOpcode.Statement (.exit o) :=
  ⟨rfl, fun h => by simp [requiresOperand, Instr.opcode] at h⟩

theorem Laws.EncodedOpcode.lit (o : Option (BitVec 16)) : Laws.EncodedOpcode.Statement (.lit o) :=
  ⟨rfl, fun h => by simp [requiresOperand, Instr.opcode] at h⟩

theorem Laws.EncodedOpcode.cout (o : Option (BitVec 16)) : Laws.EncodedOpcode.Statement (.cout o) :=
  ⟨rfl, fun h => by simp [requiresOperand, Instr.opcode] at h⟩

theorem Laws.EncodedOpcode.cin (o : Option (BitVec 16)) : Laws.EncodedOpcode.Statement (.cin o) :=
  ⟨rfl, fun h => by simp [requiresOperand, Instr.opcode] at h⟩

theorem Laws.EncodedOpcode.strlit (f : StrlitForm) : Laws.EncodedOpcode.Statement (.strlit f) :=
  ⟨by cases f <;> rfl, fun h => by simp [requiresOperand, Instr.opcode] at h⟩

theorem Laws.EncodedOpcode.sout (o : Option (BitVec 16)) : Laws.EncodedOpcode.Statement (.sout o) :=
  ⟨rfl, fun _ => by cases o <;> simp [WellFormed, encode, decodeOperand]⟩

end Sys2Proof
end

