-- ==== Sys2Proof/Tests/Slice0.lean ====
section
/-! SUPPORT. Tests: expected results are the vectors of spec/95_test_vectors.md, named by their number there, or are
written out from the rule named; and a witness for the hypotheses of every statement that has some. -/

namespace Sys2Proof.Tests

open Sys2Proof Sys2Proof.Machine

/-- A running engine of `segments` segments with the given cells (by flat address) and Data Stack (top first). -/
def eng (segments : Nat) (cells : Memory) (stack : List Word) : State :=
  { State.constructed segments .unbounded .unbounded with
    mem := cells, ds := stack, running := true, phase := .running }

/-- A field of the next state. -/
def after {α : Type} (f : State → α) (r : Result) : Option α :=
  match r with
  | .next t => some (f t)
  | .fault _ => none
  | .refused _ => none

/-- The Word of a row: opcode and operand (30_encoding.md R68). -/
def w0 (op : BitVec 8) : Word := .ins op none
def w1 (op : BitVec 8) (u : BitVec 16) : Word := .ins op (some u)

/-- Kind, opcode and cursor of the fault record after a step. -/
def record (s : State) : Option (Option FaultRecord) := after State.fault (step s)

/-! ## WellFormed refuses each ill-formed form (R83, R88) -/

theorem test_wellformed_refuses_store : WellFormed (.store none) = false := by decide
theorem test_wellformed_refuses_fetch : WellFormed (.fetch none) = false := by decide
theorem test_wellformed_refuses_if : WellFormed (.branchIf none) = false := by decide
theorem test_wellformed_refuses_call : WellFormed (.call none) = false := by decide
theorem test_wellformed_refuses_sout : WellFormed (.sout none) = false := by decide
theorem test_wellformed_takes_plain : WellFormed (.add none) = true ∧ WellFormed (.store (some 0)) = true := by decide

/-! ## Decoding: a word of every row, opcode in bits 31:24, operand in bits 23:8 (R70, R82) -/

theorem test_decode_rows_00_to_07 :
    decodeTableWord 32 0x00000000 = some (.nop none) ∧ decodeTableWord 32 0x01000500 = some (.store (some 5)) ∧
    decodeTableWord 32 0x02000000 = some (.add none) ∧ decodeTableWord 32 0x03000000 = some (.sub none) ∧
    decodeTableWord 32 0x04000000 = some (.rstore none) ∧ decodeTableWord 32 0x05000500 = some (.fetch (some 5)) ∧
    decodeTableWord 32 0x06000000 = some (.and none) ∧ decodeTableWord 32 0x07000000 = some (.drop none) := by decide
theorem test_decode_rows_08_to_0F :
    decodeTableWord 32 0x08000000 = some (.dup none) ∧ decodeTableWord 32 0x09000000 = some (.or none) ∧
    decodeTableWord 32 0x0A000000 = some (.copyOver none) ∧ decodeTableWord 32 0x0B000000 = some (.rfetch none) ∧
    decodeTableWord 32 0x0C000000 = some (.swap none) ∧ decodeTableWord 32 0x0D000000 = some (.xor none) ∧
    decodeTableWord 32 0x0E000200 = some (.branchIf (some 2)) ∧
    decodeTableWord 32 0x0F03FF00 = some (.call (some 0x3FF)) := by decide
theorem test_decode_rows_10_to_15 :
    decodeTableWord 32 0x10000000 = some (.exit none) ∧ decodeTableWord 32 0x11000000 = some (.lit none) ∧
    decodeTableWord 32 0x12000000 = some (.cout none) ∧ decodeTableWord 32 0x13000000 = some (.cin none) ∧
    decodeTableWord 32 0x14000000 = some (.strlit (.marker none)) ∧
    decodeTableWord 32 0x15000900 = some (.sout (some 9)) ∧ decodeTableWord 32 0x16000000 = none := by decide
/-- E4: the operand of an opcode outside REQ is kept in the cell. -/
theorem test_decode_ignored_operand : decode (w1 0x02 0x1234) = .ok (.add (some 0x1234)) := by decide
/-- R86: a Text word is opcode 0x14. -/
theorem test_decode_text : decode (.txt ['h', 'i']) = .ok (.strlit (.text ['h', 'i'])) := by decide
/-- R116, R84, R85, R88. -/
theorem test_decode_rejects : decode (w1 0xFF 5) = .error .unknownOpcode ∧ decode (.lit 5) = .error .unknownOpcode ∧
    decode (w0 0x0E) = .error .noOperand := by decide
theorem test_fetched_word_runs :
    step (State.reset.withFetchWord 32 0x08000000) = exec (.dup none) (State.reset.withFetchWord 32 0x08000000) := by
  rfl

/-! ## Codec (2.1) -/

/-- E7, E8, E10, E11. -/
theorem test_canon : canon (w1 0x0F 0x03FF) = ['0', 'x', '0', 'F', '0', '3', 'F', 'F', '0', '0'] ∧
    canon (.lit (-1)) = ['0', 'x', 'F', 'F', 'F', 'F', 'F', 'F', 'F', 'F'] ∧
    canon (.txt ['h', 'i']) = ['0', 'x', '1', '4', 'h', 'i'] := by decide
/-- E2, E3, E5. -/
theorem test_encode_instruction : encodeInstruction 0x01 none = .error .invalidOperand ∧
    encodeInstruction 0x02 (some 0x10000) = .error .invalidOperand ∧
    encodeInstruction 0x16 none = .ok (w0 0x16) := by decide
/-- E15 to E21. -/
theorem test_truthy : truthy (w0 0x10) = true ∧ truthy (w1 0x0F 0x1000) = false ∧ truthy (.lit 1) = false ∧
    truthy (.lit 0x1FFFFFFF) = true ∧ truthy (.lit 0x20000000) = false ∧ truthy (.lit 0x110000000) = true ∧
    truthy (.lit (-0xF0000000)) = true ∧ truthy (.txt []) = true := by decide
/-- E24, E25. -/
theorem test_opaddr : opaddr 0x1000 = ⟨1, 0⟩ ∧ opaddr 0xF3FF = ⟨15, 1023⟩ ∧ opaddr 0x0FFF = ⟨0, 4095⟩ := by decide
/-- E26 to E30. -/
theorem test_parse_address : parseAddressLiteral ['0', '0', '0', '5'] = .ok ⟨0, 5⟩ ∧
    parseAddressLiteral ['1', 'a', 'b', 'c'] = .ok ⟨1, 0xABC⟩ ∧
    parseAddressLiteral ['1', '2', '3', '4', '5', '6', '7'] = .error .malformedAddress ∧
    parseAddressLiteral ['0', 'x', '1', '0'] = .error .malformedAddress := by decide
/-- E28, E31. -/
theorem test_pack_address : packAddress ⟨15, 0xFFF⟩ = .ok 0xFFFF ∧ packAddress ⟨1, 0x2345⟩ = .error .invalidOperand := by
  decide
/-- E32 to E34. -/
theorem test_opcode_table : opcodeOf ['>', 'R'] = .ok 0x04 ∧ opcodeOf ['a', 'd', 'd'] = .error .unknownMnemonic ∧
    requiredOperandCount ['L', 'I', 'T'] = .ok 0 ∧ requiredOperandCount ['S', 'O', 'U', 'T'] = .ok 1 := by decide

/-! ## Addresses and cursor (2.2, 2.3) -/

/-- A1 to A4. -/
theorem test_flat : fromFlat 1029 = .ok ⟨1, 5⟩ ∧ fromFlat 262143 = .ok ⟨255, 1023⟩ ∧
    fromFlat 262144 = .error .outOfBounds ∧ toFlat ⟨3, 7⟩ = 3079 := by decide
/-- K2 to K4. -/
theorem test_increment : increment 1 ⟨0, 1023⟩ = ⟨0, 0⟩ ∧ increment 2 ⟨0, 1023⟩ = ⟨1, 0⟩ ∧
    increment 16 ⟨15, 1023⟩ = ⟨0, 0⟩ ∧ increment 16 ⟨14, 1023⟩ = ⟨15, 0⟩ := by decide

/-! ## Instructions, one step each (2.4 to 2.10) -/

/-- L2. -/
theorem test_add_wraps : after State.ds (step (eng 1 [(0, w0 0x02)] [.lit 1, .lit 0x7FFFFFFFFFFFFFFF])) =
    some [.lit 0x8000000000000000] := by decide
/-- S5. -/
theorem test_sub_order : after (fun t => (t.ds, t.pc)) (step (eng 1 [(0, w0 0x03)] [.lit 3, .lit 5])) =
    some ([.lit 2], ⟨0, 1⟩) := by decide
/-- L5. -/
theorem test_sub_wraps : after State.ds (step (eng 1 [(0, w0 0x03)] [.lit 1, .lit 0x8000000000000000])) =
    some [.lit 0x7FFFFFFFFFFFFFFF] := by decide
/-- L7. -/
theorem test_and : after State.ds (step (eng 1 [(0, w0 0x06)] [.lit 15, .lit (-1)])) = some [.lit 15] := by decide
/-- L8. -/
theorem test_or : after State.ds (step (eng 1 [(0, w0 0x09)] [.lit 10, .lit 12])) = some [.lit 14] := by decide
/-- L9. -/
theorem test_xor : after State.ds (step (eng 1 [(0, w0 0x0D)] [.lit (-1), .lit 5])) = some [.lit (-6)] := by decide
/-- L12. -/
theorem test_add_operand_type : record (eng 1 [(0, w0 0x02)] [w0 0x02, .lit 1]) =
    some (some ⟨.operandType, some 0x02, ⟨0, 0⟩⟩) := by decide
/-- L14: underflow is reported before the operand's type. -/
theorem test_and_underflow_first : record (eng 1 [(0, w0 0x06)] [.txt ['a']]) =
    some (some ⟨.stackUnderflow, some 0x06, ⟨0, 0⟩⟩) := by decide
/-- T1. -/
theorem test_drop : after State.ds (step (eng 1 [(0, w0 0x07)] [.lit 2, .lit 1])) = some [.lit 1] := by decide
/-- T3. -/
theorem test_dup_text : after State.ds (step (eng 1 [(0, w0 0x08)] [.txt ['a']])) =
    some [.txt ['a'], .txt ['a']] := by decide
/-- T5. -/
theorem test_dup_overflow : record { eng 1 [(0, w0 0x08)] [.lit 4] with dsDepth := .finite 1 } =
    some (some ⟨.stackOverflow, some 0x08, ⟨0, 0⟩⟩) := by decide
/-- T6. -/
theorem test_over : after State.ds (step (eng 1 [(0, w0 0x0A)] [.lit 2, .lit 1])) =
    some [.lit 1, .lit 2, .lit 1] := by decide
/-- T9. -/
theorem test_swap : after State.ds (step (eng 1 [(0, w0 0x0C)] [.lit 2, .lit 1, .lit 0])) =
    some [.lit 1, .lit 2, .lit 0] := by decide
/-- T10: the one pop that would have succeeded is not committed. -/
theorem test_swap_underflow_keeps : after (fun t => (t.ds, t.phase)) (step (eng 1 [(0, w0 0x0C)] [.lit 1])) =
    some ([.lit 1], .faulted) := by decide
/-- U1. -/
theorem test_rstore : after (fun t => (t.ds, t.rs)) (step (eng 1 [(0, w0 0x04)] [.lit 2, .lit 1])) =
    some ([.lit 1], [.lit 2]) := by decide
/-- U2. -/
theorem test_rfetch : after (fun t => (t.ds, t.rs)) (step { eng 1 [(0, w0 0x0B)] [.lit 1] with rs := [.lit 2] }) =
    some ([.lit 2, .lit 1], []) := by decide
/-- M1. -/
theorem test_store : after (fun t => (t.ds, t.mem.read 5)) (step (eng 1 [(0, w1 0x01 5)] [.lit 9])) =
    some ([], .lit 9) := by decide
/-- M2: an offset of 0x400 faults though its flat number would be inside a larger memory. -/
theorem test_store_bounds : after (fun t => (t.ds, t.mem, t.fault)) (step (eng 2 [(0, w1 0x01 0x0400)] [.lit 9])) =
    some ([.lit 9], [(0, w1 0x01 0x0400)], some ⟨.outOfBounds, some 0x01, ⟨0, 0⟩⟩) := by decide
/-- M8. -/
theorem test_fetch_fresh : after State.ds (step (eng 1 [(0, w1 0x05 5)] [])) = some [w0 0x00] := by decide
/-- M10. -/
theorem test_fetch_own_cell : after State.ds (step (eng 1 [(0, w1 0x05 0)] [])) = some [w1 0x05 0] := by decide
/-- M15: the inline cell of a LIT at the last cell is (0,0). -/
theorem test_lit_wraps : after (fun t => (t.ds, t.pc))
    (step { eng 1 [(0, .lit 5), (1023, w0 0x11)] [] with pc := ⟨0, 1023⟩ }) = some ([.lit 5], ⟨0, 1⟩) := by decide
/-- M16. -/
theorem test_lit_rolls_over : after (fun t => (t.ds, t.pc))
    (step { eng 2 [(1023, w0 0x11), (1024, .lit 5)] [] with pc := ⟨0, 1023⟩ }) = some ([.lit 5], ⟨1, 1⟩) := by decide
/-- B2. -/
theorem test_nop_operand : after State.pc (step { eng 1 [(3, w1 0x00 0xFFFF)] [] with pc := ⟨0, 3⟩ }) =
    some ⟨0, 4⟩ := by decide
/-- S7. -/
theorem test_if_taken : after (fun t => (t.ds, t.pc))
    (step { eng 1 [(2, w1 0x0E 6)] [.lit 0x10000000] with pc := ⟨0, 2⟩ }) = some ([], ⟨0, 6⟩) := by decide
/-- B6: a false value with an invalid target does not fault. -/
theorem test_if_passed : after (fun t => (t.ds, t.pc)) (step (eng 1 [(0, w1 0x0E 0x0400)] [.lit 0])) =
    some ([], ⟨0, 1⟩) := by decide
/-- B11. -/
theorem test_call : after (fun t => (t.pc, t.rs)) (step (eng 2 [(0, w1 0x0F 0x1000)] [])) =
    some (⟨1, 0⟩, []) := by decide
/-- B12. -/
theorem test_call_bounds : record (eng 1 [(0, w1 0x0F 0x1000)] []) =
    some (some ⟨.outOfBounds, some 0x0F, ⟨0, 0⟩⟩) := by decide
/-- B15. -/
theorem test_exit : after (fun t => (t.running, t.phase, t.pc))
    (step { eng 1 [(1023, w0 0x10)] [] with pc := ⟨0, 1023⟩ }) = some (false, .halted, ⟨0, 0⟩) := by decide
/-- O2. -/
theorem test_cout_negative : after State.out (step (eng 1 [(0, w0 0x12)] [.lit (-42)])) =
    some [['-', '4', '2']] := by decide
/-- O4. -/
theorem test_cout_instruction : after State.out (step (eng 1 [(0, w0 0x12)] [w0 0x12])) =
    some [['0', 'x', '1', '2', '0', '0', '0', '0', '0', '0']] := by decide
/-- O6. -/
theorem test_cin : after (fun t => (t.ds, t.input, t.inWait, t.pc))
    (step { eng 1 [(0, w0 0x13)] [] with input := [['2', '5']], inWait := true }) =
    some ([.lit 25], [], false, ⟨0, 1⟩) := by decide
/-- O8. -/
theorem test_cin_holds : after (fun t => (t.inWait, t.phase, t.pc)) (step (eng 1 [(0, w0 0x13)] [])) =
    some (true, .running, ⟨0, 0⟩) := by decide
/-- O7. -/
theorem test_convert : cinConvert ['0', '0', '7'] = .lit 7 ∧ cinConvert ['+', '7'] = .txt ['+', '7'] ∧
    cinConvert ['-', '7'] = .lit (-7) ∧ cinConvert ['-'] = .txt ['-'] ∧
    cinConvert ['9', '2', '2', '3', '3', '7', '2', '0', '3', '6', '8', '5', '4', '7', '7', '5', '8', '0', '8'] =
      .txt ['9', '2', '2', '3', '3', '7', '2', '0', '3', '6', '8', '5', '4', '7', '7', '5', '8', '0', '8'] := by decide
/-- O2: the ends of the range. -/
theorem test_decimal_least : decimal 0x8000000000000000 =
    ['-', '9', '2', '2', '3', '3', '7', '2', '0', '3', '6', '8', '5', '4', '7', '7', '5', '8', '0', '8'] := by decide
/-- O10. -/
theorem test_text_word_runs : after State.pc (step { eng 1 [(4, .txt ['h', 'i'])] [] with pc := ⟨0, 4⟩ }) =
    some ⟨0, 5⟩ := by decide
/-- O12. -/
theorem test_strlit_bad_operand : after (fun t => (t.pc, t.fault)) (step (eng 1 [(0, w1 0x14 0x0400)] [])) =
    some (⟨0, 1⟩, none) := by decide
/-- O13. -/
theorem test_sout : after State.out (step (eng 1 [(0, w1 0x15 9), (9, .txt ['h', 'i'])] [])) =
    some [['h', 'i']] := by decide
/-- O15. -/
theorem test_sout_type : record (eng 1 [(0, w1 0x15 9)] []) =
    some (some ⟨.operandType, some 0x15, ⟨0, 0⟩⟩) := by decide
/-- F3. -/
theorem test_literal_cell : record (eng 1 [(0, .lit 5)] []) = some (some ⟨.unknownOpcode, none, ⟨0, 0⟩⟩) := by decide
/-- F4. -/
theorem test_no_operand_first : record { eng 1 [(0, w0 0x05)] [] with dsDepth := .finite 0 } =
    some (some ⟨.noOperand, some 0x05, ⟨0, 0⟩⟩) := by decide

/-! ## Host interface (2.11) -/

/-- H1. -/
theorem test_construct : construct 0 .unbounded .unbounded = .error .tooMuchMemoryRequested ∧
    construct 17 .unbounded .unbounded = .error .tooMuchMemoryRequested := by decide
/-- H4: FILLCNT 3. -/
theorem test_fill_next :
    (match load [w0 0, w0 0, w0 0, .lit 1] (State.constructed 1 .unbounded .unbounded) with
      | .ok t => some (t.mem, t.pc, t.fillCnt)
      | .error _ => none) = some ([(3, .lit 1)], ⟨0, 4⟩, 4) := by decide
/-- H9. -/
theorem test_run_after_fault :
    (match runEntry (faultedFrom .stackUnderflow (some 0x02) (eng 1 [] [.lit 1])) with
      | .ok t => some (t.fault, t.pc, t.phase, t.ds)
      | .error _ => none) = some (none, ⟨0, 0⟩, .running, [.lit 1]) := by decide

/-- 00_scope.md R13: RS `[1, 2]`, whose top is 2, has `peek(0)` 2 and `peek(1)` 1, and underflows at its depth. -/
theorem test_peek_rs :
    peekRs 0 { eng 1 [] [] with rs := [.lit 2, .lit 1] } = .ok (.lit 2) ∧
    peekRs 1 { eng 1 [] [] with rs := [.lit 2, .lit 1] } = .ok (.lit 1) ∧
    peekRs 2 { eng 1 [] [] with rs := [.lit 2, .lit 1] } = .error .stackUnderflow := ⟨rfl, rfl, rfl⟩

/-! ## Witnesses: a concrete state and operands that meet each statement's hypotheses, clause by clause -/

/-- An engine whose stacks have the finite depths `d` and `r`. -/
def engD (d r : Nat) (stack rstack : List Word) : State :=
  { eng 1 [] stack with dsDepth := .finite d, rsDepth := .finite r, rs := rstack }

theorem witness_AddPushesWrappedSum : ∃ (s : State) (a b : BitVec 64) (rest : List Word),
    s.ds = .lit a :: .lit b :: rest := ⟨eng 1 [] [.lit 1, .lit 0x7FFFFFFFFFFFFFFF], _, _, _, rfl⟩
theorem witness_SubPushesWrappedDifference : ∃ (s : State) (a b : BitVec 64) (rest : List Word),
    s.ds = .lit a :: .lit b :: rest := ⟨eng 1 [] [.lit 1, .lit 0x8000000000000000], _, _, _, rfl⟩
theorem witness_AndPushesBitwiseConjunction : ∃ (s : State) (a b : BitVec 64) (rest : List Word),
    s.ds = .lit a :: .lit b :: rest := ⟨eng 1 [] [.lit 10, .lit 12], _, _, _, rfl⟩
theorem witness_OrPushesBitwiseDisjunction : ∃ (s : State) (a b : BitVec 64) (rest : List Word),
    s.ds = .lit a :: .lit b :: rest := ⟨eng 1 [] [.lit 15, .lit 240], _, _, _, rfl⟩
theorem witness_XorPushesBitwiseExclusiveOr : ∃ (s : State) (a b : BitVec 64) (rest : List Word),
    s.ds = .lit a :: .lit b :: rest := ⟨eng 1 [] [.lit (-1), .lit 5], _, _, _, rfl⟩
theorem witness_ArithLogicFaults :
    (eng 1 [] [.lit 1]).ds.length < 2 ∧
    ((eng 1 [] [.txt [], .lit 1]).ds = .txt [] :: .lit 1 :: [] ∧ ∀ v, Word.txt [] ≠ .lit v) ∧
    ((eng 1 [] [.lit 1, w0 2]).ds = .lit 1 :: w0 2 :: [] ∧ ∀ v, w0 2 ≠ .lit v) := by
  refine ⟨by decide, ⟨rfl, by simp⟩, rfl, by simp [w0]⟩
theorem witness_DropDiscardsTop :
    (eng 1 [] [.lit 1]).ds = .lit 1 :: [] ∧ (eng 1 [] []).ds = [] := ⟨rfl, rfl⟩
theorem witness_DupCopiesTop :
    ((engD 2 0 [.lit 4] []).ds = .lit 4 :: [] ∧ RoomDs (engD 2 0 [.lit 4] [])) ∧ (engD 0 0 [] []).ds = [] ∧
    ((engD 1 0 [.lit 4] []).ds ≠ [] ∧ FullDs (engD 1 0 [.lit 4] [])) :=
  ⟨⟨rfl, .inr ⟨2, rfl, by decide⟩⟩, rfl, by decide, 1, rfl, by decide⟩
theorem witness_OverCopiesSecond :
    ((engD 3 0 [.lit 2, .lit 1] []).ds = .lit 2 :: .lit 1 :: [] ∧ RoomDs (engD 3 0 [.lit 2, .lit 1] [])) ∧
    (eng 1 [] [.lit 1]).ds.length < 2 ∧
    (2 ≤ (engD 2 0 [.lit 2, .lit 1] []).ds.length ∧ FullDs (engD 2 0 [.lit 2, .lit 1] [])) :=
  ⟨⟨rfl, .inr ⟨3, rfl, by decide⟩⟩, by decide, by decide, 2, rfl, by decide⟩
theorem witness_SwapExchangesTopTwo :
    (eng 1 [] [.lit 2, .lit 1]).ds = .lit 2 :: .lit 1 :: [] ∧ (eng 1 [] [.lit 1]).ds.length < 2 ∧
    exec (.swap none) (eng 1 [] [.lit 1]) = .next (faultedFrom .stackUnderflow (some 0x0C) (eng 1 [] [.lit 1])) :=
  ⟨rfl, by decide, rfl⟩
theorem witness_StackLawSequences :
    (engD 4 0 [.lit 2, .lit 1] []).ds = .lit 2 :: .lit 1 :: [] ∧ RoomDs (engD 4 0 [.lit 2, .lit 1] []) ∧
    RoomDs { engD 4 0 [.lit 2, .lit 1] [] with ds := .lit 1 :: (engD 4 0 [.lit 2, .lit 1] []).ds } :=
  ⟨rfl, .inr ⟨4, rfl, by decide⟩, .inr ⟨4, rfl, by decide⟩⟩
theorem witness_RstoreMovesTopToReturnStack :
    ((engD 9 1 [.lit 2] []).ds = .lit 2 :: [] ∧ RoomRs (engD 9 1 [.lit 2] [])) ∧ (engD 9 1 [] [.lit 5]).ds = [] ∧
    ((engD 9 1 [.lit 1] [.lit 9]).ds ≠ [] ∧ FullRs (engD 9 1 [.lit 1] [.lit 9])) :=
  ⟨⟨rfl, .inr ⟨1, rfl, by decide⟩⟩, rfl, by decide, 1, rfl, by decide⟩
theorem witness_RfetchMovesTopToDataStack :
    ((engD 2 9 [.lit 1] [.lit 2]).rs = .lit 2 :: [] ∧ RoomDs (engD 2 9 [.lit 1] [.lit 2])) ∧
    (engD 2 9 [.lit 5] []).rs = [] ∧
    ((engD 1 9 [.lit 1] [.lit 9]).rs ≠ [] ∧ FullDs (engD 1 9 [.lit 1] [.lit 9])) :=
  ⟨⟨rfl, .inr ⟨2, rfl, by decide⟩⟩, rfl, by decide, 1, rfl, by decide⟩
theorem witness_StoreWritesPoppedWord :
    (eng 1 [] []).ds = [] ∧
    ((eng 1 [] [.lit 9]).ds ≠ [] ∧ ¬ valid (eng 1 [] [.lit 9]).segCount (opaddr 0x1000)) ∧
    ((eng 1 [] [.lit 9]).ds = .lit 9 :: [] ∧ valid (eng 1 [] [.lit 9]).segCount (opaddr 0x03FF)) :=
  ⟨rfl, ⟨by decide, by decide⟩, rfl, by decide⟩
theorem witness_FetchPushesCell :
    ¬ valid (eng 1 [] []).segCount (opaddr 0x1000) ∧
    (valid (engD 0 0 [] []).segCount (opaddr 0x0005) ∧ FullDs (engD 0 0 [] [])) ∧
    (valid (engD 1 0 [] []).segCount (opaddr 0x03FF) ∧ RoomDs (engD 1 0 [] [])) :=
  ⟨by decide, ⟨by decide, 0, rfl, by decide⟩, by decide, .inr ⟨1, rfl, by decide⟩⟩
theorem witness_LitPushesInlineCell :
    (valid (engD 1 0 [] []).segCount (engD 1 0 [] []).pc ∧ RoomDs (engD 1 0 [] [])) ∧
    (valid (engD 0 0 [] []).segCount (engD 0 0 [] []).pc ∧ FullDs (engD 0 0 [] [])) :=
  ⟨⟨by decide, .inr ⟨1, rfl, by decide⟩⟩, by decide, 0, rfl, by decide⟩
theorem witness_StoredWordIsFetchedNext :
    (eng 1 [(0, w1 0x01 1)] [w0 0x10]).mem.wf ∧ (eng 1 [(0, w1 0x01 1)] [w0 0x10]).running = true ∧
    valid (eng 1 [(0, w1 0x01 1)] [w0 0x10]).segCount (eng 1 [(0, w1 0x01 1)] [w0 0x10]).pc ∧
    cellAtCursor (eng 1 [(0, w1 0x01 1)] [w0 0x10]) = .ins 0x01 (some 1) ∧
    opaddr 1 = nextCell (eng 1 [(0, w1 0x01 1)] [w0 0x10]) ∧ (eng 1 [(0, w1 0x01 1)] [w0 0x10]).ds = w0 0x10 :: [] := by
  decide
theorem witness_IfBranchesOnTruthyTop :
    (eng 1 [] []).ds = [] ∧
    ((eng 1 [] [.lit 0x10000000]).ds = .lit 0x10000000 :: [] ∧ truthy (.lit 0x10000000) = true ∧
      valid (eng 1 [] [.lit 0x10000000]).segCount (opaddr 0x03FF) ∧
      ¬ valid (eng 1 [] [.lit 0x10000000]).segCount (opaddr 0x0400)) ∧
    ((eng 1 [] [.lit 0x20000000]).ds = .lit 0x20000000 :: [] ∧ truthy (.lit 0x20000000) = false) :=
  ⟨rfl, ⟨rfl, by decide, by decide, by decide⟩, rfl, by decide⟩
theorem witness_CallBranchesAndPushesNothing :
    valid (eng 2 [] []).segCount (opaddr 0x13FF) ∧ ¬ valid (eng 1 [] []).segCount (opaddr 0x1000) := by decide
theorem witness_CoutEmitsRenderedTop :
    (eng 1 [] [.lit 10]).ds = .lit 10 :: [] ∧ (eng 1 [] []).ds = [] := ⟨rfl, rfl⟩
theorem witness_CinPushesNextTokenOrHolds :
    ({ engD 1 0 [] [] with input := [['2', '5']] }.input = ['2', '5'] :: [] ∧
      RoomDs { engD 1 0 [] [] with input := [['2', '5']] }) ∧
    ((engD 1 0 [] []).input = [] ∧ RoomDs (engD 1 0 [] [])) ∧
    (FullDs (engD 1 0 [.lit 1] []) ∧ exec (.cin none) (engD 1 0 [.lit 1] []) =
      .next (faultedFrom .stackOverflow (some 0x13) (engD 1 0 [.lit 1] []))) :=
  ⟨⟨rfl, .inr ⟨1, rfl, by decide⟩⟩, ⟨rfl, .inr ⟨1, rfl, by decide⟩⟩, ⟨1, rfl, by decide⟩, rfl⟩
theorem witness_SoutEmitsAddressedText :
    ¬ valid (eng 1 [] []).segCount (opaddr 0x0400) ∧
    (valid (eng 1 [] []).segCount (opaddr 9) ∧ ∀ str, (eng 1 [] []).mem.read (toFlat (opaddr 9)) ≠ .txt str) ∧
    (valid (eng 1 [(9, .txt [])] []).segCount (opaddr 9) ∧
      (eng 1 [(9, .txt [])] []).mem.read (toFlat (opaddr 9)) = .txt []) :=
  ⟨by decide, ⟨by decide, fun str h => Word.noConfusion (show Word.ins 0 none = .txt str from h)⟩,
    by decide, by decide⟩

/-- The digits of 2^63, whose value is out of range and whose negation is in range. -/
def twoTo63 : Str :=
  ['9', '2', '2', '3', '3', '7', '2', '0', '3', '6', '8', '5', '4', '7', '7', '5', '8', '0', '8']
theorem witness_RenderedLiteralReadsBack :
    (∀ c ∈ twoTo63, '0' ≤ c ∧ c ≤ '9') ∧
    2 ^ 63 = Nat.ofDigits 10 ((twoTo63.map fun c => c.toNat - '0'.toNat).reverse) ∧
    (-2 ^ 63 ≤ -(2 ^ 63 : Int) ∧ -(2 ^ 63 : Int) < 2 ^ 63) ∧
    ∀ sign digits : Str, (sign = [] ∨ sign = ['-']) → digits ≠ [] → (∀ c ∈ digits, '0' ≤ c ∧ c ≤ '9') →
      ['+', '7'] ≠ sign ++ digits := by
  refine ⟨by simp [twoTo63], rfl, by decide, ?_⟩
  rintro sign digits (rfl | rfl) _ hd h
  · subst h
    exact absurd (hd '+' List.mem_cons_self) (by decide)
  · cases h

/-- A step of a concrete engine: DUP in cell 0 with one entry. -/
theorem witness_OnlyStoreWritesMemory : ∃ (i : Instr) (s t : State) (a : Address), exec i s = .next t ∧
    ∀ u, i = .store (some u) → a ≠ opaddr u :=
  ⟨.store (some 5), eng 1 [] [.lit 9], _, ⟨0, 6⟩, rfl, fun u h => by cases h; decide⟩
theorem witness_OtherStateIsLeftAlone :
    (∃ t, exec (.nop none) (eng 1 [] []) = .next t) ∧ (∃ t, exec (.exit none) (eng 1 [] []) = .next t) ∧
    (∀ o, Instr.nop none ≠ .rstore o ∧ Instr.nop none ≠ .rfetch o) ∧
    (∀ o, Instr.nop none ≠ .cout o ∧ Instr.nop none ≠ .sout o) ∧ (∀ o, Instr.nop none ≠ .cin o) ∧
    (∀ o, Instr.nop none ≠ .exit o) ∧
    (∃ o f, Instr.nop none = .nop o ∨ Instr.nop none = .call o ∨ Instr.nop none = .exit o ∨
      Instr.nop none = .strlit f ∨ Instr.nop none = .sout o) :=
  ⟨⟨_, rfl⟩, ⟨_, rfl⟩, by simp, by simp, by simp, by simp, none, .marker none, .inl rfl⟩
theorem witness_CursorMoves :
    (eng 1 [] []).fault = none ∧
    (∃ t, exec (.drop none) (eng 1 [] []) = .next t ∧ t.fault ≠ none) ∧
    (∃ t, exec (.call (some 5)) (eng 1 [] []) = .next t ∧ t.fault = none) ∧
    (∃ t, exec (.branchIf (some 5)) (eng 1 [] [.txt []]) = .next t ∧ t.fault = none) ∧
    (∃ t, exec (.branchIf (some 5)) (eng 1 [] [.lit 0]) = .next t ∧ t.fault = none) ∧
    (∃ t, exec (.lit none) (eng 1 [] []) = .next t ∧ t.fault = none) ∧
    (∃ t, exec (.cin none) (eng 1 [] []) = .next t ∧ t.fault = none ∧ (eng 1 [] []).input = []) ∧
    (∃ t, exec (.nop none) (eng 1 [] []) = .next t ∧ t.fault = none) :=
  ⟨rfl, ⟨_, rfl, by decide⟩, ⟨_, rfl, rfl⟩, ⟨_, rfl, rfl⟩, ⟨_, rfl, rfl⟩, ⟨_, rfl, rfl⟩, ⟨_, rfl, rfl, rfl⟩,
    ⟨_, rfl, rfl⟩⟩
theorem witness_IgnoredOperandChangesNothing :
    (Instr.add none).opcode = (Instr.add (some 0x1234)).opcode ∧
    requiresOperand (Instr.add none).opcode = false := by decide
theorem witness_StepRunsTheDecodedInstruction :
    (eng 1 [(0, w1 0x01 5)] []).running = true ∧
    valid (eng 1 [(0, w1 0x01 5)] []).segCount (eng 1 [(0, w1 0x01 5)] []).pc ∧
    decode (cellAtCursor (eng 1 [(0, w1 0x01 5)] [])) = .ok (.store (some 5)) := by decide
theorem witness_UndecodableCellFaults :
    ((eng 1 [(0, w0 0x16)] []).running = true ∧
      valid (eng 1 [(0, w0 0x16)] []).segCount (eng 1 [(0, w0 0x16)] []).pc) ∧
    (cellAtCursor (eng 1 [(0, w0 0x16)] []) = .ins 0x16 none ∧ 0x15 < (0x16 : BitVec 8).toNat) ∧
    cellAtCursor (eng 1 [(0, .lit 5)] []) = .lit 5 ∧ cellAtCursor (eng 1 [(0, w0 0x15)] []) = .ins 0x15 none := by
  decide
theorem witness_StoppedEngineStays : State.reset.running = false := rfl

/-- An engine with one cell listed, at (0,0), and nothing else in it, is legal. -/
theorem legal_one_cell (c : Word) (hc : c ≠ blankCell) (waits : Bool)
    (hw : waits = true → decodeOpcode c = some 0x13) :
    Legal { eng 1 [(0, c)] [] with inWait := waits } where
  segments := show 1 ≤ 1 ∧ 1 ≤ 16 by decide
  cursorValid := show valid 1 ⟨0, 0⟩ by decide
  memCanonical := ⟨by simp [eng], by simpa [eng] using hc⟩
  memInside := fun e he => by
    rw [List.mem_singleton.mp he]
    exact show 0 < capacity 1 by decide
  dsWithin := rfl
  rsWithin := rfl
  runningPhase := by simp [eng]
  faultPhase := by simp [eng, State.constructed]
  faultRecord := by simp [eng, State.constructed]
  fillCount := show 0 ≤ capacity 1 from Nat.zero_le _
  loading := by simp [eng]
  waiting := fun h => ⟨rfl, by simpa [cellAtCursor, eng, State.constructed, Memory.read, toFlat] using hw h, rfl⟩
  tokens := by simp [eng, State.constructed]

theorem witness_FaultingStepCommitsNothing : ∃ s t : State,
    Legal s ∧ s.running = true ∧ step s = .next t ∧ t.phase = .faulted :=
  ⟨_, _, legal_one_cell (w0 0x02) (by decide) false (by simp), rfl, rfl, rfl⟩
theorem witness_RunEndsOnlyByExitOrFault :
    (∃ t, step (eng 1 [(0, w0 0x10)] []) = .next t ∧ t.running = false ∧ t.phase = .halted) ∧
    (∃ t, step (eng 1 [(0, w0 0x02)] []) = .next t ∧ t.running = false ∧ t.phase = .faulted) ∧
    (eng 1 [(0, w0 0x10)] []).running = true ∧ (eng 1 [(0, w0 0x02)] []).running = true :=
  ⟨⟨_, rfl, rfl, rfl⟩, ⟨_, rfl, rfl, rfl⟩, rfl, rfl⟩
theorem witness_PhaseTransitions : ∃ s t u : State, Legal s ∧ step s = .next t ∧ hostCall (.token ['7']) s = .ok u :=
  ⟨_, _, _, legal_one_cell (w0 0x10) (by decide) false (by simp), rfl, rfl⟩
theorem witness_WaitingCinHoldsUntilToken : ∃ s : State, Legal s ∧ s.inWait = true ∧ s.input = [] ∧
    isToken ['2', '5'] = true :=
  ⟨_, legal_one_cell (w0 0x13) (by decide) true (fun _ => rfl), rfl, rfl, by decide⟩
theorem witness_StepKeepsLegal : ∃ s t : State, Legal s ∧ step s = .next t :=
  ⟨_, _, legal_one_cell (w1 0x0F 5) (by decide) false (by simp), rfl⟩
theorem witness_LegalStateAlwaysSteps : ∃ s : State, Legal s :=
  ⟨_, legal_one_cell (w0 0x13) (by decide) true (fun _ => rfl)⟩
theorem witness_ReachableStatesAreLegal :
    (∃ s, construct 16 .unbounded (.finite 0) = .ok s ∧ Reachable s) ∧
    ∃ s t : State, Legal s ∧ hostCall (.token ['7']) s = .ok t :=
  ⟨⟨_, rfl, .constructed (segmentCount := 16) (dsDepth := .unbounded) (rsDepth := .finite 0) rfl⟩,
    _, _, legal_one_cell (w0 0x13) (by decide) true (fun _ => rfl), rfl⟩
theorem witness_DecodeAndEncodeAreInverse :
    WellFormed (.sout (some 0xFFFF)) = true ∧ decode (.ins 0x15 (some 0xFFFF)) = .ok (.sout (some 0xFFFF)) ∧
    decode (.ins 0x16 none) = .error .unknownOpcode := by decide
theorem witness_ImageOfInstructionWord :
    (requiresOperand 0x01 = true ∨ (0 : BitVec 16) ≠ 0) ∧ (requiresOperand 0x02 = true ∨ (1 : BitVec 16) ≠ 0) ∧
    requiresOperand 0x02 = false := by decide
theorem witness_EncodeInstructionRoundTrip : encodeInstruction 0x02 none = .ok (.ins 0x02 none) ∧
    encodeInstruction 0x05 (some 0) = .ok (.ins 0x05 (some 0)) ∧
    encodeInstruction 0x15 (some 0xFFFF) = .ok (.ins 0x15 (some 0xFFFF)) ∧
    ((0 : Int) ≤ 0xFFFF ∧ (0xFFFF : Int) ≤ 0xFFFF) ∧ ((-1 : Int) < 0 ∧ (0xFFFF : Int) < 0x10000) ∧
    (0x16 : BitVec 8) ∉ [0x01, 0x05, 0x0E, 0x0F, 0x15] ∧ (0x15 : BitVec 8) ∈ [0x01, 0x05, 0x0E, 0x0F, 0x15] := by decide
theorem witness_WordEqualityIsCoarse : wordEq (.lit 0) (.lit 0x100000000) = true := by decide
theorem witness_IncrementRollsOverAndWraps :
    (1 ≤ 2 ∧ 2 ≤ Config.maxSegments ∧ valid 2 ⟨0, 1022⟩ ∧ (1022 : BitVec 16).toNat < 1023) ∧
    (valid 2 ⟨0, 1023⟩ ∧ (1023 : BitVec 16).toNat = 1023 ∧ (0 : BitVec 8).toNat + 1 < 2) ∧
    (valid 2 ⟨1, 1023⟩ ∧ (1 : BitVec 8).toNat + 1 = 2) := by decide
theorem witness_IncrementIsFlatSuccessor : 1 ≤ 16 ∧ 16 ≤ Config.maxSegments ∧ valid 16 ⟨15, 1023⟩ := by decide
theorem witness_FlatConversionLaws : (1023 : BitVec 16).toNat < 1024 ∧ 262143 < 262144 ∧
    16 ≤ Config.maxSegments ∧ 262144 ≤ 262144 := by decide
theorem witness_ReadAfterWrite :
    (eng 1 [(5, .lit 9)] []).mem.wf ∧ valid (eng 1 [(5, .lit 9)] []).segCount ⟨0, 1023⟩ ∧
    ¬ valid (eng 1 [(5, .lit 9)] []).segCount ⟨0, 1024⟩ ∧ (⟨0, 5⟩ : Address) ≠ ⟨0, 1023⟩ := by decide
theorem witness_CanonicalMemoriesWithEqualReadsAreEqual : ∃ m m' : Memory,
    m.wf ∧ m'.wf ∧ ∀ k, m.read k = m'.read k :=
  ⟨[(5, .lit 9)], Memory.write [(7, .lit 1), (5, .lit 9)].reverse 7 blankCell, by decide, by decide, fun _ => rfl⟩
theorem witness_ConstructionGivesTheResetState :
    ((0 : BitVec 8).toNat = 0 ∧ 16 < (17 : BitVec 8).toNat) ∧ 1 ≤ (1 : BitVec 8).toNat ∧ (16 : BitVec 8).toNat ≤ 16 := by
  decide
theorem witness_FillNextLoadsAtTheCursor :
    (eng 1 [] []).phase ≠ .loading ∧ (eng 1 [] []).phase = .running ∧
    ({ State.reset with fillCnt := 16384 }.phase = .loading ∧
      { State.reset with fillCnt := 16384 }.fillCnt = capacity { State.reset with fillCnt := 16384 }.segCount) ∧
    ({ State.reset with fillCnt := 16383 }.phase = .loading ∧
      { State.reset with fillCnt := 16383 }.fillCnt ≠ capacity { State.reset with fillCnt := 16383 }.segCount) := by
  decide
theorem witness_LoaderPlacesWordKAtFlatK :
    construct 1 .unbounded .unbounded = .ok (State.constructed 1 .unbounded .unbounded) ∧
    (List.replicate 1024 (w0 0x00)).length ≤ capacity (1 : BitVec 8).toNat ∧
    capacity (1 : BitVec 8).toNat < (List.replicate 1025 (w0 0x00)).length := by
  refine ⟨rfl, ?_, ?_⟩ <;> rw [List.length_replicate] <;> decide
theorem witness_RunEntryResetsTheCursor : (eng 1 [] []).phase = .running ∧ State.reset.phase ≠ .running := by decide
theorem witness_AddressLiteralPacksToOperand :
    (parseAddressLiteral ['F', '3', 'F', 'F'] = .ok ⟨15, 0x3FF⟩ ∧ packAddress ⟨15, 0x3FF⟩ = .ok 0xF3FF) ∧
    hexValueFrom 0 ['F', '3', 'F', 'F'] = some 0xF3FF ∧ hexDigitValue 'G' = none := by decide
theorem witness_OpcodeTableAgreesWithTheMap :
    opcodeOf ['R', '>'] = .ok 0x0B ∧ opcodeOf ['S', 'O', 'U', 'T'] = .ok 0x15 ∧ ∀ op, opcodeOf ['N', 'O', 'P', 'E'] ≠ .ok op := by
  refine ⟨by decide, by decide, fun op h => ?_⟩
  have : opcodeOf ['N', 'O', 'P', 'E'] = .error .unknownMnemonic := by decide
  rw [this] at h
  cases h

end Sys2Proof.Tests
end

