-- ==== Sys2Proof/Proofs/MemoryAccess.lean ====
section
/-! PROOFS. Reading after a write: MemRead and MemWrite of 20_memory.md. -/

namespace Sys2Proof.Machine

/-- Different valid addresses name different cells: the flat number loses nothing inside the address space. -/
theorem toFlat_ne_of_valid {n : Nat} {a b : Address} (ha : valid n a) (hb : valid n b) (hne : b ≠ a) :
    toFlat b ≠ toFlat a := fun h => hne (toFlat_inj hb.2 ha.2 h)

/-- What MemWrite can do when it answers: the address was valid, and only the cell named by it is replaced. -/
theorem memWrite_eq_ok_iff {a : Address} {w : Word} {s t : State} :
    memWrite a w s = .ok t ↔ valid s.segCount a ∧ t = setMem (s.mem.write (toFlat a) w) s := by
  by_cases hv : valid s.segCount a
  · rw [memWrite_ok hv, Except.ok.injEq, and_iff_right hv, eq_comm]
  · simp [memWrite_error hv, hv]

/-- A read of the cell just written gives the Word written (20_memory.md R49, R50). -/
theorem memRead_memWrite_same {a : Address} {w : Word} {s t : State} (hm : s.mem.wf) (h : memWrite a w s = .ok t) :
    memRead a t = .ok w := by
  obtain ⟨hv, rfl⟩ := memWrite_eq_ok_iff.mp h
  calc memRead a (setMem (s.mem.write (toFlat a) w) s)
      = .ok ((s.mem.write (toFlat a) w).read (toFlat a)) := memRead_ok hv
    _ = .ok w := by rw [Memory.read_write_same _ _ _ hm]

/-- A read at any other address, valid or not, answers as before the write (20_memory.md R50). -/
theorem memRead_memWrite_ne {a b : Address} {w : Word} {s t : State} (h : memWrite a w s = .ok t) (hne : b ≠ a) :
    memRead b t = memRead b s := by
  obtain ⟨hv, rfl⟩ := memWrite_eq_ok_iff.mp h
  by_cases hb : valid s.segCount b
  · have hcell := toFlat_ne_of_valid hv hb hne
    calc memRead b (setMem (s.mem.write (toFlat a) w) s)
        = .ok ((s.mem.write (toFlat a) w).read (toFlat b)) := memRead_ok hb
      _ = .ok (s.mem.read (toFlat b)) := by rw [Memory.read_write_ne _ _ _ _ hcell]
      _ = memRead b s := (memRead_ok hb).symm
  · rw [memRead_error hb, memRead_error (by rwa [setMem_segCount])]

/-- Settles O53: outside the address space both accesses fail by their check; inside it the cell written reads as the
Word written, and any other address names another cell. -/
theorem readAfterWrite : Obligations.ReadAfterWrite := by
  unfold Obligations.ReadAfterWrite
  intro s a w hm
  refine ⟨fun hv => ⟨memWrite_error hv, memRead_error hv⟩, fun hv => ?_⟩
  have hw := memWrite_ok (w := w) hv
  exact ⟨_, hw, memRead_memWrite_same hm hw, fun b hne => memRead_memWrite_ne hw hne⟩

end Sys2Proof.Machine
end

