-- ==== Sys2Proof/Proofs/CanonicalForm.lean ====
section
/-! PROOFS. Truthiness and the digits of the canonical form: R73, R80 of 30_encoding.md. -/

namespace Sys2Proof.Machine

/-- Among the sixteen digits only the digit of 1 is written `1`. -/
theorem hexDigit_eq_one_iff {n : Nat} (h : n < 16) : hexDigit n = '1' ↔ n = 1 := by
  decide +revert

/-- The first digit of a Literal's canonical form is bits 31:28 of its low 32 bits (30_encoding.md R73). -/
theorem canon_lit_firstDigit (v : BitVec 64) :
    (canon (.lit v))[2]? = some (hexDigit (v.extractLsb' 28 4).toNat) := by
  have hbits : (v.extractLsb' 28 4).toNat = v.toNat % 2 ^ 32 / 16 ^ 7 % 16 := by
    rw [BitVec.extractLsb'_toNat, Nat.shiftRight_eq_div_pow]
    omega
  rw [hbits]
  rfl

/-- TRUTHY_LIT at its default, on the number that bits 31:28 spell (00_scope.md R201). -/
theorem truthyLit_iff (v : BitVec 64) : truthyLit v = true ↔ (v.extractLsb' 28 4).toNat = 1 := by
  rw [truthyLit, beq_iff_eq, ← BitVec.toNat_inj]
  rfl

/-- Settles O46: an Instruction or a Text is tested on its canonical form itself; a Literal is tested on bits 31:28,
which are the digit that its canonical form begins with. -/
theorem truthyIsFirstHexDigit : Obligations.TruthyIsFirstHexDigit := by
  unfold Obligations.TruthyIsFirstHexDigit
  intro w
  cases w with
  | ins op operand => exact beq_iff_eq
  | txt str => exact beq_iff_eq
  | lit v =>
    calc truthy (.lit v) = true
        ↔ (v.extractLsb' 28 4).toNat = 1 := truthyLit_iff v
      _ ↔ hexDigit (v.extractLsb' 28 4).toNat = '1' := (hexDigit_eq_one_iff (v.extractLsb' 28 4).isLt).symm
      _ ↔ (canon (.lit v))[2]? = some '1' := by rw [canon_lit_firstDigit, Option.some.injEq]

end Sys2Proof.Machine
end

