-- ==== Sys2Proof/Proofs/CursorAdvance.lean ====
section
/-! PROOFS. Advancing the cursor by one cell: `increment` of 40_fetch_decode_execute.md, one equation per branch. -/

namespace Sys2Proof.Machine

/-- Before the end of a segment the advance stays in it (40_fetch_decode_execute.md R108). -/
theorem increment_of_offset_lt {n : Nat} {a : Address} (ho : a.offset.toNat < 1023) :
    increment n a = ⟨a.segment, a.offset + 1⟩ :=
  if_neg (by simp only [Config.segmentSize]; omega)

/-- At the end of a segment that is not the last, the advance enters the next one (40_fetch_decode_execute.md R108). -/
theorem increment_of_segment_end {n : Nat} {a : Address} (ho : a.offset.toNat = 1023) (hs : a.segment.toNat + 1 < n) :
    increment n a = ⟨a.segment + 1, 0⟩ := by
  rw [increment, if_pos (by rw [ho]), if_neg hs.ne]

/-- At the end of the last segment the advance wraps to the first cell (40_fetch_decode_execute.md R108). -/
theorem increment_of_last_cell {n : Nat} {a : Address} (ho : a.offset.toNat = 1023) (hs : a.segment.toNat + 1 = n) :
    increment n a = ⟨0, 0⟩ := by
  rw [increment, if_pos (by rw [ho]), if_pos hs]

/-- Settles O50: each clause is one branch of `increment`. Neither sum wraps in its field: the offset stays below 1024
in its 16 bits, and with at most 16 segments the segment stays below 16 in its 8 bits. -/
theorem incrementRollsOverAndWraps : Obligations.IncrementRollsOverAndWraps := by
  unfold Obligations.IncrementRollsOverAndWraps
  intro n a _ hmax hv
  refine ⟨increment_valid hv, fun ho => ?inside, fun ho hs => ?segmentEnd, increment_of_last_cell⟩
  case inside =>
    rw [increment_of_offset_lt ho]
    have hsum : (a.offset + 1).toNat = a.offset.toNat + 1 :=
      BitVec.toNat_add_of_lt (show a.offset.toNat + 1 < 2 ^ 16 by omega)
    exact ⟨rfl, hsum⟩
  case segmentEnd =>
    rw [increment_of_segment_end ho hs]
    have hsum : (a.segment + 1).toNat = a.segment.toNat + 1 :=
      BitVec.toNat_add_of_lt (show a.segment.toNat + 1 < 2 ^ 8 by unfold Config.maxSegments at hmax; omega)
    exact ⟨hsum, rfl⟩

end Sys2Proof.Machine
end

