-- ==== Sys2Proof/Proofs/ArithLogic.lean ====
section
/-! PROOFS. The two-operand instructions of 41_arith_logic.md on two Literals: one rule for the shared `binop`, which
each instruction meets at its own operation. -/

namespace Sys2Proof.Machine

/-- `binop` pops two Literals a (top) and b and pushes `f b a` (41_arith_logic.md R129). -/
theorem binop_of_lits (f : BitVec 64 → BitVec 64 → BitVec 64) {s : State} {a b : BitVec 64} {rest : List Word}
    (hd : s.ds = .lit a :: .lit b :: rest) :
    binop f s = .ok ({ s with ds := .lit (f b a) :: rest }, .seq) := by
  rw [binop, popDs_cons hd]
  rfl

/-- The step of a two-operand instruction on two Literals: its result replaces them, and the cursor is one cell
further (41_arith_logic.md R129, 40_fetch_decode_execute.md R118). -/
theorem settle_binop_of_lits (op : BitVec 8) (f : BitVec 64 → BitVec 64 → BitVec 64) {s : State} {a b : BitVec 64}
    {rest : List Word} (hd : s.ds = .lit a :: .lit b :: rest) :
    settle op s (binop f s) = .next { s with ds := .lit (f b a) :: rest, pc := nextCell s } := by
  rw [binop_of_lits f hd, settle_ok]
  rfl

/-- Addition of Literals is `wrap64` of the exact sum (41_arith_logic.md R130). -/
theorem ofInt_toInt_add_toInt (x y : BitVec 64) : BitVec.ofInt 64 (x.toInt + y.toInt) = x + y := by
  rw [BitVec.ofInt_add, BitVec.ofInt_toInt, BitVec.ofInt_toInt]

/-- Subtraction of Literals is `wrap64` of the exact difference (41_arith_logic.md R131). -/
theorem ofInt_toInt_sub_toInt (x y : BitVec 64) : BitVec.ofInt 64 (x.toInt - y.toInt) = x - y := by
  rw [Int.sub_eq_add_neg, BitVec.ofInt_add, BitVec.ofInt_neg, BitVec.ofInt_toInt, BitVec.ofInt_toInt,
    BitVec.sub_eq_add_neg]

/-- Settles O1: ADD is the two-operand rule at `+`, which is the exact sum wrapped to 64 bits. -/
theorem addPushesWrappedSum : Obligations.AddPushesWrappedSum := by
  unfold Obligations.AddPushesWrappedSum
  refine fun operand => ⟨rfl, rfl, fun s a b rest hd => ?_⟩
  rw [ofInt_toInt_add_toInt]
  exact settle_binop_of_lits 0x02 (fun b a => b + a) hd

/-- Settles O2: SUB is the two-operand rule at `-`, with the second entry on the left; the exact difference wraps to
it. -/
theorem subPushesWrappedDifference : Obligations.SubPushesWrappedDifference := by
  unfold Obligations.SubPushesWrappedDifference
  refine fun operand => ⟨rfl, rfl, fun s a b rest hd => ?_⟩
  rw [ofInt_toInt_sub_toInt]
  exact settle_binop_of_lits 0x03 (fun b a => b - a) hd

/-- Settles O3: AND is the two-operand rule at `&&&`, whose bits are the conjunctions of the operands' bits. -/
theorem andPushesBitwiseConjunction : Obligations.AndPushesBitwiseConjunction := by
  unfold Obligations.AndPushesBitwiseConjunction
  refine fun operand => ⟨rfl, rfl, fun s a b rest hd => ⟨b &&& a, fun k => BitVec.getLsbD_and, ?_⟩⟩
  exact settle_binop_of_lits 0x06 (fun b a => b &&& a) hd

/-- Settles O4: OR is the two-operand rule at `|||`, whose bits are the disjunctions of the operands' bits. -/
theorem orPushesBitwiseDisjunction : Obligations.OrPushesBitwiseDisjunction := by
  unfold Obligations.OrPushesBitwiseDisjunction
  refine fun operand => ⟨rfl, rfl, fun s a b rest hd => ⟨b ||| a, fun k => BitVec.getLsbD_or, ?_⟩⟩
  exact settle_binop_of_lits 0x09 (fun b a => b ||| a) hd

/-- Settles O5: XOR is the two-operand rule at `^^^`, whose bits are the exclusive ors of the operands' bits. -/
theorem xorPushesBitwiseExclusiveOr : Obligations.XorPushesBitwiseExclusiveOr := by
  unfold Obligations.XorPushesBitwiseExclusiveOr
  refine fun operand => ⟨rfl, rfl, fun s a b rest hd => ⟨b ^^^ a, fun k => BitVec.getLsbD_xor, ?_⟩⟩
  exact settle_binop_of_lits 0x0D (fun b a => b ^^^ a) hd

end Sys2Proof.Machine
end

