-- ==== Sys2Proof/Proofs/DataStack.lean ====
section
/-! PROOFS. The Data Stack instructions of 42_stack.md: what each does, one lemma per outcome. -/

namespace Sys2Proof.Machine

/-- DROP pops the top, whatever its variant, and the cursor is one cell further (42_stack.md R137). -/
theorem execDrop_cons {s : State} {x : Word} {rest : List Word} (hd : s.ds = x :: rest) :
    execDrop s = .next { s with ds := rest, pc := nextCell s } := by
  rw [execDrop, popDs_cons hd]
  rfl

/-- DROP on an empty stack enters its fault from the state before it (42_stack.md R137). -/
theorem execDrop_nil {s : State} (hd : s.ds = []) :
    execDrop s = .next (raise .stackUnderflow (some 0x07) s) := by
  rw [execDrop, popDs_nil hd]
  rfl

/-- Settles O7: the pop that DROP runs answers on a non-empty stack and underflows on an empty one. -/
theorem dropDiscardsTop : Obligations.DropDiscardsTop := by
  unfold Obligations.DropDiscardsTop
  refine fun operand => ⟨rfl, rfl, fun s => ⟨fun x rest hd => ?nonempty, fun hd => ?empty⟩⟩
  case nonempty => exact execDrop_cons hd
  case empty => exact raises_of_eq (execDrop_nil hd)

end Sys2Proof.Machine
end

