-- ==== Sys2Proof/Proofs/Control.lean ====
section
/-! PROOFS. NOP and CALL of 45_control.md: what each does, one lemma per outcome. -/

namespace Sys2Proof.Machine

/-- Every cell of a new engine holds the blank cell (10_state.md R39). -/
theorem constructed_mem_read (n : Nat) (d r : Capacity) (k : Nat) :
    (State.constructed n d r).mem.read k = blankCell := Memory.read_nil k

/-- NOP completes from every state, and only the cursor moves (45_control.md R149). -/
theorem execNop_eq (s : State) : execNop s = .next { s with pc := nextCell s } :=
  settle_ok 0x00 s s .seq

/-- Settles O18: a cell of a new engine is the blank cell, which decodes to NOP; NOP has one outcome, and its operand
field does not reach it. -/
theorem nopOnlyAdvances : Obligations.NopOnlyAdvances := by
  unfold Obligations.NopOnlyAdvances
  refine ⟨fun n d r k => ?blank, fun operand => ⟨rfl, rfl, fun s => execNop_eq s⟩⟩
  case blank =>
    rw [constructed_mem_read]
    rfl

/-- CALL without an operand enters its fault from the state before it (30_encoding.md R88, 45_control.md R151). -/
theorem execCall_none (s : State) : execCall none s = .next (raise .noOperand (some 0x0F) s) :=
  settle_error 0x0F s .noOperand

/-- With an operand, CALL's outcome rests on the check of its target alone (45_control.md R151). -/
theorem execCall_some (u : BitVec 16) (s : State) :
    execCall (some u) s = settle 0x0F s (do return (s, .branch (← checkTarget (opaddr u) s))) := rfl

/-- CALL to a valid address sets the cursor and nothing else (45_control.md R151). -/
theorem execCall_of_valid {s : State} {u : BitVec 16} (hv : valid s.segCount (opaddr u)) :
    execCall (some u) s = .next { s with pc := opaddr u } := by
  rw [execCall_some, checkTarget_ok hv]
  rfl

/-- CALL to an address that names no cell enters its fault from the state before it (45_control.md R151). -/
theorem execCall_of_not_valid {s : State} {u : BitVec 16} (hv : ¬ valid s.segCount (opaddr u)) :
    execCall (some u) s = .next (raise .outOfBounds (some 0x0F) s) := by
  rw [execCall_some, checkTarget_error hv]
  rfl

/-- Settles O20: CALL has three outcomes, by whether it carries an operand and whether that names a cell. -/
theorem callBranchesAndPushesNothing : Obligations.CallBranchesAndPushesNothing := by
  unfold Obligations.CallBranchesAndPushesNothing
  refine ⟨fun u => ⟨rfl, rfl⟩, rfl, fun s => ⟨?noOperand, fun u => ⟨fun hv => ?taken, fun hv => ?outOfBounds⟩⟩⟩
  case noOperand => exact raises_of_eq (execCall_none s)
  case taken => exact execCall_of_valid hv
  case outOfBounds => exact raises_of_eq (execCall_of_not_valid hv)

end Sys2Proof.Machine
end

section
/-! PROOFS. COUT of 46_io.md: what it does, one lemma per outcome. -/

namespace Sys2Proof.Machine

/-- COUT pops the top, emits its rendering, and the cursor is one cell further (46_io.md R155). -/
theorem execCout_cons {s : State} {x : Word} {rest : List Word} (hd : s.ds = x :: rest) :
    execCout s = .next { s with ds := rest, out := s.out ++ [render x], pc := nextCell s } := by
  rw [execCout, popDs_cons hd]
  rfl

/-- COUT on an empty stack emits nothing and enters its fault from the state before it (46_io.md R155). -/
theorem execCout_nil {s : State} (hd : s.ds = []) :
    execCout s = .next (raise .stackUnderflow (some 0x12) s) := by
  rw [execCout, popDs_nil hd]
  rfl

/-- Settles O22: the pop that COUT runs answers on a non-empty stack and underflows on an empty one; that 10 is emitted
as its two decimal digits is an evaluation of `render`. -/
theorem coutEmitsRenderedTop : Obligations.CoutEmitsRenderedTop := by
  unfold Obligations.CoutEmitsRenderedTop
  refine ⟨?rendersTen, fun operand => ⟨rfl, rfl, fun s => ⟨fun x rest hd => ?nonempty, fun hd => ?empty⟩⟩⟩
  case rendersTen => decide
  case nonempty => exact execCout_cons hd
  case empty => exact raises_of_eq (execCout_nil hd)

end Sys2Proof.Machine
end

section
/-! PROOFS. The word codec of 30_encoding.md: decoding and encoding are inverse, and which Words do not decode. -/

namespace Sys2Proof

/-! ## Opcodes -/

/-- The opcodes of REQ, written out (30_encoding.md R83). -/
theorem requiresOperand_iff (op : BitVec 8) :
    requiresOperand op = true ↔ op ∈ [(0x01 : BitVec 8), 0x05, 0x0E, 0x0F, 0x15] := by
  simp [requiresOperand, or_assoc]

/-- The other opcodes of the map, written out (30_encoding.md R82, R83). -/
theorem mem_plain_opcodes {op : BitVec 8} (hmap : op.toNat ≤ 0x15) (hreq : ¬ requiresOperand op = true) :
    op ∈ [(0x00 : BitVec 8), 0x02, 0x03, 0x04, 0x06, 0x07, 0x08, 0x09, 0x0A, 0x0B, 0x0C, 0x0D, 0x10, 0x11, 0x12, 0x13,
      0x14] := by
  decide +revert

/-- Every instruction's opcode is in the map (30_encoding.md R82). -/
theorem Instr.opcode_le (i : Instr) : i.opcode.toNat ≤ 0x15 := by
  cases i <;> simp [Instr.opcode]

/-- The per-constructor laws of `Laws.EncodedOpcode`, for every instruction. -/
theorem encodedOpcode_statement (i : Instr) : Laws.EncodedOpcode.Statement i := by
  cases i with
  | nop o => exact Laws.EncodedOpcode.nop o
  | store o => exact Laws.EncodedOpcode.store o
  | add o => exact Laws.EncodedOpcode.add o
  | sub o => exact Laws.EncodedOpcode.sub o
  | rstore o => exact Laws.EncodedOpcode.rstore o
  | fetch o => exact Laws.EncodedOpcode.fetch o
  | and o => exact Laws.EncodedOpcode.and o
  | drop o => exact Laws.EncodedOpcode.drop o
  | dup o => exact Laws.EncodedOpcode.dup o
  | or o => exact Laws.EncodedOpcode.or o
  | copyOver o => exact Laws.EncodedOpcode.copyOver o
  | rfetch o => exact Laws.EncodedOpcode.rfetch o
  | swap o => exact Laws.EncodedOpcode.swap o
  | xor o => exact Laws.EncodedOpcode.xor o
  | branchIf o => exact Laws.EncodedOpcode.branchIf o
  | call o => exact Laws.EncodedOpcode.call o
  | exit o => exact Laws.EncodedOpcode.exit o
  | lit o => exact Laws.EncodedOpcode.lit o
  | cout o => exact Laws.EncodedOpcode.cout o
  | cin o => exact Laws.EncodedOpcode.cin o
  | strlit f => exact Laws.EncodedOpcode.strlit f
  | sout o => exact Laws.EncodedOpcode.sout o

/-- The Word of an instruction carries its opcode (30_encoding.md R94). -/
theorem decodeOpcode_encode (i : Instr) : decodeOpcode (encode i) = some i.opcode :=
  (encodedOpcode_statement i).1

/-- In REQ an instruction is well formed exactly when its Word carries an operand (30_encoding.md R88, R95). -/
theorem wellFormed_iff_of_requiresOperand {i : Instr} (h : requiresOperand i.opcode = true) :
    WellFormed i = true ↔ ∃ u, decodeOperand (encode i) = .ok u :=
  (encodedOpcode_statement i).2 h

/-! ## Decoding what was encoded -/

/-- The check for an operand passes exactly when there is one (40_fetch_decode_execute.md R116). -/
theorem withRequired_of_isSome {operand : Option (BitVec 16)} (i : Instr) (h : operand.isSome = true) :
    withRequired operand i = .ok i := if_pos h

/-- Every well-formed instruction is decoded from its Word. -/
theorem decode_encode (i : Instr) (h : WellFormed i = true) : decode (encode i) = .ok i := by
  cases i with
  | store o => exact withRequired_of_isSome _ h
  | fetch o => exact withRequired_of_isSome _ h
  | branchIf o => exact withRequired_of_isSome _ h
  | call o => exact withRequired_of_isSome _ h
  | sout o => exact withRequired_of_isSome _ h
  | strlit form => cases form <;> rfl
  | _ => rfl

/-! ## What decoding can do -/

/-- The three outcomes of decoding an Instruction word: the instruction whose Word it is, an opcode above the map, or an
opcode of REQ without its operand (30_encoding.md R82, R84, R88). -/
inductive DecodeCases (op : BitVec 8) (operand : Option (BitVec 16)) : Except DecodeError Instr → Prop where
  | decoded {i : Instr} (hw : WellFormed i = true) (he : encode i = .ins op operand) : DecodeCases op operand (.ok i)
  | unknownOpcode (h : 0x15 < op.toNat) : DecodeCases op operand (.error .unknownOpcode)
  | noOperand (hr : requiresOperand op = true) (ho : operand = none) : DecodeCases op operand (.error .noOperand)

/-- The check for an operand, on an opcode of REQ. -/
theorem withRequired_cases {op : BitVec 8} {operand : Option (BitVec 16)} {i : Instr}
    (hr : requiresOperand op = true) (hw : WellFormed i = operand.isSome) (he : encode i = .ins op operand) :
    DecodeCases op operand (withRequired operand i) := by
  cases operand with
  | some u => exact .decoded hw he
  | none => exact .noOperand hr rfl

/-- An opcode above the map decodes to nothing (30_encoding.md R84): no row of the decoder's table matches it. -/
theorem decodeIns_of_gt {op : BitVec 8} (operand : Option (BitVec 16)) (h : 0x15 < op.toNat) :
    decodeIns op operand = .error .unknownOpcode := by
  unfold decodeIns
  split
  case h_23 => rfl
  all_goals omega

/-- Everything that decoding an Instruction word can do. -/
theorem decodeIns_cases (op : BitVec 8) (operand : Option (BitVec 16)) :
    DecodeCases op operand (decodeIns op operand) := by
  by_cases hmap : op.toNat ≤ 0x15
  · by_cases hreq : requiresOperand op = true
    · have hop := (requiresOperand_iff op).mp hreq
      simp only [List.mem_cons, List.not_mem_nil, or_false] at hop
      rcases hop with rfl | rfl | rfl | rfl | rfl
      all_goals exact withRequired_cases rfl rfl rfl
    · have hop := mem_plain_opcodes hmap hreq
      simp only [List.mem_cons, List.not_mem_nil, or_false] at hop
      rcases hop with rfl | rfl | rfl | rfl | rfl | rfl | rfl | rfl | rfl | rfl | rfl | rfl | rfl | rfl | rfl | rfl | rfl
      all_goals exact .decoded rfl rfl
  · rw [decodeIns_of_gt operand (Nat.lt_of_not_le hmap)]
    exact .unknownOpcode (Nat.lt_of_not_le hmap)

/-- What a Word that decodes says of its instruction: it is well formed, and the Word is its encoding. -/
theorem wellFormed_and_encode_of_decode {w : Word} {i : Instr} (h : decode w = .ok i) :
    WellFormed i = true ∧ encode i = w := by
  cases w with
  | lit v => cases h
  | txt s => cases h; exact ⟨rfl, rfl⟩
  | ins op operand =>
    have hc := decodeIns_cases op operand
    rw [show decodeIns op operand = .ok i from h] at hc
    cases hc with
    | decoded hw he => exact ⟨hw, he⟩

/-- The opcode of a Word that decodes is its instruction's. -/
theorem decodeOpcode_of_decode {w : Word} {i : Instr} (h : decode w = .ok i) : decodeOpcode w = some i.opcode := by
  obtain ⟨-, rfl⟩ := wellFormed_and_encode_of_decode h
  exact decodeOpcode_encode i

/-- The Instruction words that do not decode (30_encoding.md R84, R88). -/
theorem decodeIns_error_iff (op : BitVec 8) (operand : Option (BitVec 16)) :
    (∃ e, decodeIns op operand = .error e) ↔ 0x15 < op.toNat ∨ (requiresOperand op = true ∧ operand = none) := by
  constructor
  · rintro ⟨e, he⟩
    have hc := decodeIns_cases op operand
    rw [he] at hc
    cases hc with
    | unknownOpcode h => exact .inl h
    | noOperand hr ho => exact .inr ⟨hr, ho⟩
  · intro h
    cases hd : decodeIns op operand with
    | error e => exact ⟨e, rfl⟩
    | ok i =>
      obtain ⟨hw, he⟩ := wellFormed_and_encode_of_decode (w := .ins op operand) hd
      have hop : op = i.opcode := Option.some.inj (decodeOpcode_of_decode (w := .ins op operand) hd)
      rcases h with h | ⟨hr, rfl⟩
      · exact absurd i.opcode_le (by rw [← hop]; omega)
      · obtain ⟨u, hu⟩ := (wellFormed_iff_of_requiresOperand (hop ▸ hr)).mp hw
        rw [he] at hu
        cases hu

end Sys2Proof

namespace Sys2Proof.Machine

/-- Settles O43: each direction of the inversion is a lemma above; a Text always decodes and a Literal never, so the
Words that do not decode are the Literals and the Instruction words that `decodeIns` refuses. -/
theorem decodeAndEncodeAreInverse : Obligations.DecodeAndEncodeAreInverse := by
  unfold Obligations.DecodeAndEncodeAreInverse
  refine ⟨decode_encode, fun w i h => ?converse, fun w => ?undecodable⟩
  case converse =>
    obtain ⟨hw, he⟩ := wellFormed_and_encode_of_decode h
    exact ⟨hw, he, decodeOpcode_of_decode h⟩
  case undecodable =>
    cases w with
    | lit v => simp [decode]
    | txt s => simp [decode]
    | ins op operand =>
      calc (∃ e, decode (.ins op operand) = .error e)
          ↔ 0x15 < op.toNat ∨ (requiresOperand op = true ∧ operand = none) := decodeIns_error_iff op operand
        _ ↔ _ := by simp [requiresOperand_iff, and_assoc, and_comm (a := operand = none), -List.mem_cons]

end Sys2Proof.Machine
end

section
/-! PROOFS. `encode_instruction` and words written out, of 30_encoding.md. -/

namespace Sys2Proof.Machine

/-- With an operand, `encode_instruction` accepts exactly the range of a u16 (30_encoding.md R90). -/
theorem encodeInstruction_some_of_mem (op : BitVec 8) {u : Int} (h : 0 ≤ u ∧ u ≤ 0xFFFF) :
    encodeInstruction op (some u) = .ok (.ins op (some (BitVec.ofInt 16 u))) := if_pos h

theorem encodeInstruction_some_of_not_mem (op : BitVec 8) {u : Int} (h : ¬ (0 ≤ u ∧ u ≤ 0xFFFF)) :
    encodeInstruction op (some u) = .error .invalidOperand := if_neg h

/-- Without one, it accepts exactly the opcodes outside REQ (30_encoding.md R90). -/
theorem encodeInstruction_none_of_not_requires {op : BitVec 8} (h : ¬ requiresOperand op = true) :
    encodeInstruction op none = .ok (.ins op none) := if_neg h

theorem encodeInstruction_none_of_requires {op : BitVec 8} (h : requiresOperand op = true) :
    encodeInstruction op none = .error .invalidOperand := if_pos h

/-- An integer in the range of a u16 is the value of its 16-bit pattern. -/
theorem toNat_ofInt_sixteen {u : Int} (h : 0 ≤ u ∧ u ≤ 0xFFFF) : ((BitVec.ofInt 16 u).toNat : Int) = u := by
  rw [BitVec.toNat_ofInt]
  omega

/-- Settles O48: the four outcomes of `encode_instruction` are its two range checks, and a Word it gives shows opcode
and operand as they went in. -/
theorem encodeInstructionRoundTrip : Obligations.EncodeInstructionRoundTrip := by
  unfold Obligations.EncodeInstructionRoundTrip
  intro op
  refine ⟨fun u h0 h1 => ?accepts, fun u h => ?refuses, fun h => ?plain, fun h => ?required, fun u w h => ?operandBack,
    fun w h => ?absentBack⟩
  case accepts => exact ⟨_, toNat_ofInt_sixteen ⟨h0, h1⟩, encodeInstruction_some_of_mem op ⟨h0, h1⟩⟩
  case refuses => exact encodeInstruction_some_of_not_mem op (by omega)
  case plain => exact encodeInstruction_none_of_not_requires (mt (requiresOperand_iff op).mp h)
  case required => exact encodeInstruction_none_of_requires ((requiresOperand_iff op).mpr h)
  case operandBack =>
    by_cases hu : 0 ≤ u ∧ u ≤ 0xFFFF
    · cases (encodeInstruction_some_of_mem op hu).symm.trans h
      exact ⟨rfl, _, rfl, toNat_ofInt_sixteen hu⟩
    · cases (encodeInstruction_some_of_not_mem op hu).symm.trans h
  case absentBack =>
    by_cases hr : requiresOperand op = true
    · cases (encodeInstruction_none_of_requires hr).symm.trans h
    · cases (encodeInstruction_none_of_not_requires hr).symm.trans h
      exact ⟨rfl, rfl⟩

/-- Settles O45, by evaluating the decoder on each of the eight images. -/
theorem sampleWordsDecode : Obligations.SampleWordsDecode := by
  unfold Obligations.SampleWordsDecode
  decide

end Sys2Proof.Machine
end

section
/-! PROOFS. Every step keeps a view of the state that has more strings before OUT and another FILLCNT
(10_state.md R35, R37, R38): each operation of an instruction keeps it, and so does their sequence. -/

namespace Sys2Proof.Machine

/-- The state with `past` put before OUT and `n` for FILLCNT. -/
def withPast (past : List Str) (n : Nat) (s : State) : State := { s with out := past ++ s.out, fillCnt := n }

/-- An operation that answers `x` answers `x'` on the changed state: the same fault, or the same answer
changed by `f`. -/
def Follows {α : Type} (f : α → α) (x x' : Except FaultKind α) : Prop := x' = x.map f

/-- The change to an answer with a state beside it. -/
def withPastIn {α : Type} (past : List Str) (n : Nat) (a : α × State) : α × State := (a.1, withPast past n a.2)

/-- The change to the end of an instruction's step. -/
def withPastEnd (past : List Str) (n : Nat) (a : State × Next) : State × Next := (withPast past n a.1, a.2)

theorem Follows.refl {α : Type} (x : Except FaultKind α) : Follows id x x := by
  cases x <;> rfl

theorem Follows.ok {α : Type} (f : α → α) (a : α) : Follows f (.ok a) (.ok (f a)) := rfl

/-- Operations that follow one another in sequence. -/
theorem Follows.bind {α β : Type} {f : α → α} {g : β → β} {x x' : Except FaultKind α}
    {k k' : α → Except FaultKind β} (hx : Follows f x x') (hk : ∀ a, Follows g (k a) (k' (f a))) :
    Follows g (x >>= k) (x' >>= k') := by
  cases hx
  cases x with
  | error e => rfl
  | ok a => exact hk a

section
variable (past : List Str) (n : Nat) (s : State)

/-! ## The operations -/

theorem popDs_follows : Follows (withPastIn past n) (popDs s) (popDs (withPast past n s)) := by
  cases hd : s.ds with
  | nil => rw [popDs_nil hd, popDs_nil (s := withPast past n s) hd]; rfl
  | cons w rest => rw [popDs_cons hd, popDs_cons (s := withPast past n s) hd]; rfl

theorem popRs_follows : Follows (withPastIn past n) (popRs s) (popRs (withPast past n s)) := by
  cases hd : s.rs with
  | nil => rw [popRs_nil hd, popRs_nil (s := withPast past n s) hd]; rfl
  | cons w rest => rw [popRs_cons hd, popRs_cons (s := withPast past n s) hd]; rfl

theorem pushDs_follows (w : Word) : Follows (withPast past n) (pushDs w s) (pushDs w (withPast past n s)) := by
  cases hr : hasRoom s.dsDepth s.ds.length with
  | true => rw [pushDs_ok w hr, pushDs_ok (s := withPast past n s) w hr]; rfl
  | false => rw [pushDs_error w hr, pushDs_error (s := withPast past n s) w hr]; rfl

theorem pushRs_follows (w : Word) : Follows (withPast past n) (pushRs w s) (pushRs w (withPast past n s)) := by
  cases hr : hasRoom s.rsDepth s.rs.length with
  | true => rw [pushRs_ok w hr, pushRs_ok (s := withPast past n s) w hr]; rfl
  | false => rw [pushRs_error w hr, pushRs_error (s := withPast past n s) w hr]; rfl

theorem memWrite_follows (a : Address) (w : Word) :
    Follows (withPast past n) (memWrite a w s) (memWrite a w (withPast past n s)) := by
  by_cases hv : valid s.segCount a
  · rw [memWrite_ok hv, memWrite_ok (s := withPast past n s) hv]; rfl
  · rw [memWrite_error hv, memWrite_error (s := withPast past n s) hv]; rfl

theorem binop_follows (f : BitVec 64 → BitVec 64 → BitVec 64) :
    Follows (withPastEnd past n) (binop f s) (binop f (withPast past n s)) := by
  refine (popDs_follows past n s).bind fun ⟨a, s₁⟩ => (popDs_follows past n s₁).bind fun ⟨b, s₂⟩ => ?_
  cases b <;> cases a <;> rfl

/-- OUT gains its string behind whatever stood there. -/
theorem emit_withPast (str : Str) : emit str (withPast past n s) = withPast past n (emit str s) := by
  simp [emit, withPast, List.append_assoc]

/-- An instruction's step is that of its operations: its advance and its fault entry do not look at OUT or FILLCNT. -/
theorem settle_follows (op : BitVec 8) {x x' : Except FaultKind (State × Next)}
    (h : Follows (withPastEnd past n) x x') :
    settle op (withPast past n s) x' = mapNext (withPast past n) (settle op s x) := by
  cases h
  cases x with
  | error k => rfl
  | ok a =>
    obtain ⟨t, next⟩ := a
    cases next <;> rfl

/-! ## The instructions and the step -/

theorem exec_follows (i : Instr) : exec i (withPast past n s) = mapNext (withPast past n) (exec i s) := by
  cases i with
  | nop _ => exact settle_follows past n s 0x00 (.ok _ (s, .seq))
  | exit _ => exact settle_follows past n s 0x10 (.ok _ (s, .halt))
  | strlit _ => exact settle_follows past n s 0x14 (.ok _ (s, .seq))
  | add _ => exact settle_follows past n s _ (binop_follows past n s _)
  | sub _ => exact settle_follows past n s _ (binop_follows past n s _)
  | and _ => exact settle_follows past n s _ (binop_follows past n s _)
  | or _ => exact settle_follows past n s _ (binop_follows past n s _)
  | xor _ => exact settle_follows past n s _ (binop_follows past n s _)
  | drop _ => exact settle_follows past n s _ <| (popDs_follows past n s).bind fun _ => .ok _ _
  | dup _ =>
    exact settle_follows past n s _ <|
      (Follows.refl (peekDs 0 s)).bind fun x => (pushDs_follows past n s x).bind fun _ => .ok _ _
  | copyOver _ =>
    exact settle_follows past n s _ <|
      (Follows.refl (peekDs 1 s)).bind fun x => (pushDs_follows past n s x).bind fun _ => .ok _ _
  | swap _ =>
    exact settle_follows past n s _ <|
      (popDs_follows past n s).bind fun ⟨_, s₁⟩ => (popDs_follows past n s₁).bind fun _ => .ok _ _
  | rstore _ =>
    exact settle_follows past n s _ <|
      (popDs_follows past n s).bind fun ⟨v, s₁⟩ => (pushRs_follows past n s₁ v).bind fun _ => .ok _ _
  | rfetch _ =>
    exact settle_follows past n s _ <|
      (popRs_follows past n s).bind fun ⟨v, s₁⟩ => (pushDs_follows past n s₁ v).bind fun _ => .ok _ _
  | store operand =>
    exact settle_follows past n s _ <|
      (Follows.refl (requireOperand operand)).bind fun u => (popDs_follows past n s).bind fun ⟨v, s₁⟩ =>
        (memWrite_follows past n s₁ (opaddr u) v).bind fun _ => .ok _ _
  | fetch operand =>
    exact settle_follows past n s _ <|
      (Follows.refl (requireOperand operand)).bind fun u => (Follows.refl (memRead (opaddr u) s)).bind fun x =>
        (pushDs_follows past n s x).bind fun _ => .ok _ _
  | lit _ =>
    exact settle_follows past n s _ <|
      (Follows.refl (memRead (lookahead s.segCount s.pc) s)).bind fun x =>
        (pushDs_follows past n s x).bind fun _ => .ok _ _
  | branchIf operand =>
    refine settle_follows past n s _ <|
      (Follows.refl (requireOperand operand)).bind fun u => (popDs_follows past n s).bind fun ⟨v, s₁⟩ => ?_
    cases ht : truthy v with
    | true =>
      simp only [withPastIn, ht, if_true]
      exact (Follows.refl (checkTarget (opaddr u) s₁)).bind fun _ => .ok _ _
    | false =>
      simp only [withPastIn, ht]
      exact .ok _ _
  | call operand =>
    exact settle_follows past n s _ <|
      (Follows.refl (requireOperand operand)).bind fun u =>
        (Follows.refl (checkTarget (opaddr u) s)).bind fun _ => .ok _ _
  | cout _ =>
    refine settle_follows past n s _ <| (popDs_follows past n s).bind fun ⟨x, s₁⟩ => ?_
    simp only [withPastIn, emit_withPast]
    exact .ok _ _
  | cin _ =>
    refine settle_follows past n s _ <| (Follows.refl (checkRoomDs s)).bind fun _ => ?_
    cases hi : s.input with
    | nil =>
      rw [readToken_none hi, readToken_none (s := withPast past n s) hi]
      exact .ok _ _
    | cons t rest =>
      rw [readToken_some hi, readToken_some (s := withPast past n s) hi]
      exact .ok _ _
  | sout operand =>
    refine settle_follows past n s _ <|
      (Follows.refl (requireOperand operand)).bind fun u => (Follows.refl (memRead (opaddr u) s)).bind fun x =>
        (Follows.refl (textOf x)).bind fun str => ?_
    simp only [id, emit_withPast]
    exact .ok _ _

/-- Neither the fetch nor the decoding looks at OUT or FILLCNT. -/
theorem step_follows : step (withPast past n s) = mapNext (withPast past n) (step s) := by
  have hfetch : fetchCell (withPast past n s) = fetchCell s := rfl
  unfold step
  rw [hfetch, show (withPast past n s).running = s.running from rfl]
  cases s.running with
  | false => rfl
  | true =>
    cases fetchCell s with
    | none => rfl
    | some w =>
      cases hd : decode w with
      | error e => simp only [hd]; rfl
      | ok i => simpa [hd] using exec_follows past n s i

end

/-- Settles O38: the change of the statement is `withPast`, which a step of any state keeps. -/
theorem stepIgnoresOutputAndFillCount : Obligations.StepIgnoresOutputAndFillCount := by
  unfold Obligations.StepIgnoresOutputAndFillCount
  exact fun s past n => step_follows past n s

end Sys2Proof.Machine
end

section
/-! PROOFS. The instructions one by one: what each answers, one lemma per outcome (41_arith_logic.md to 46_io.md). -/

namespace Sys2Proof.Machine

@[simp] theorem ok_bind {α β : Type} (a : α) (f : α → Except FaultKind β) : (Except.ok a >>= f) = f a := rfl

@[simp] theorem error_bind {α β : Type} (k : FaultKind) (f : α → Except FaultKind β) :
    (Except.error k >>= f) = Except.error k := rfl

/-! ## Arithmetic and logic -/

/-- `binop` needs two entries (41_arith_logic.md R129). -/
theorem binop_of_short (f : BitVec 64 → BitVec 64 → BitVec 64) {s : State} (h : s.ds.length < 2) :
    binop f s = .error .stackUnderflow := by
  match hd : s.ds with
  | [] => rw [binop, popDs_nil hd, error_bind]
  | [a] => rw [binop, popDs_cons hd]; rfl
  | a :: b :: rest => rw [hd, List.length_cons, List.length_cons] at h; omega

/-- `binop` needs two Literals (41_arith_logic.md R129, decision D6). -/
theorem binop_of_not_lits (f : BitVec 64 → BitVec 64 → BitVec 64) {s : State} {a b : Word} {rest : List Word}
    (hd : s.ds = a :: b :: rest) (h : (∀ v, a ≠ .lit v) ∨ ∀ v, b ≠ .lit v) :
    binop f s = .error .operandType := by
  rw [binop, popDs_cons hd]
  cases b with
  | ins _ _ => rfl
  | txt _ => rfl
  | lit y =>
    cases a with
    | ins _ _ => rfl
    | txt _ => rfl
    | lit x => simp at h

/-- Both faults of a two-operand instruction, through its step. -/
theorem binop_faults (op : BitVec 8) (f : BitVec 64 → BitVec 64 → BitVec 64) (s : State) :
    (s.ds.length < 2 → Raises (settle op s (binop f s)) .stackUnderflow op s) ∧
    (∀ (a b : Word) (rest : List Word), s.ds = a :: b :: rest →
      ((∀ v, a ≠ .lit v) ∨ (∀ v, b ≠ .lit v)) → Raises (settle op s (binop f s)) .operandType op s) :=
  ⟨fun h => raises_of_eq (by rw [binop_of_short f h, settle_error]),
    fun _ _ _ hd h => raises_of_eq (by rw [binop_of_not_lits f hd h, settle_error])⟩

/-- Settles O6: all five instructions are `binop` at their operation, and its two faults do not depend on that. -/
theorem arithLogicFaults : Obligations.ArithLogicFaults := by
  unfold Obligations.ArithLogicFaults
  intro operand i hi s
  simp only [List.mem_cons, List.not_mem_nil, or_false] at hi
  rcases hi with rfl | rfl | rfl | rfl | rfl
  all_goals exact binop_faults _ _ s

/-! ## Data Stack -/

theorem execDup_cons {s : State} {x : Word} {rest : List Word} (hd : s.ds = x :: rest) (hr : RoomDs s) :
    execDup s = .next { s with ds := x :: x :: rest, pc := nextCell s } := by
  rw [execDup, peekDs_ok (k := 0) (by rw [hd]; rfl), ok_bind, pushDs_ok x ((hasRoom_ds_iff s).mpr hr), ← hd]
  rfl

theorem execDup_nil {s : State} (hd : s.ds = []) : execDup s = .next (raise .stackUnderflow (some 0x08) s) := by
  rw [execDup, peekDs_error (by simp [hd])]
  rfl

theorem execDup_full {s : State} (hd : s.ds ≠ []) (hf : FullDs s) :
    execDup s = .next (raise .stackOverflow (some 0x08) s) := by
  obtain ⟨x, rest, hd⟩ := List.exists_cons_of_ne_nil hd
  rw [execDup, peekDs_ok (k := 0) (by rw [hd]; rfl), ok_bind, pushDs_error x ((hasRoom_ds_false_iff s).mpr hf)]
  rfl

/-- Settles O8: DUP looks at the top first and then for room. -/
theorem dupCopiesTop : Obligations.DupCopiesTop := by
  unfold Obligations.DupCopiesTop
  exact fun _ s => ⟨fun x rest hd hr => execDup_cons hd hr, fun hd => raises_of_eq (execDup_nil hd),
    fun hd hf => raises_of_eq (execDup_full hd hf)⟩

theorem execOver_cons {s : State} {y x : Word} {rest : List Word} (hd : s.ds = y :: x :: rest) (hr : RoomDs s) :
    execOver s = .next { s with ds := x :: y :: x :: rest, pc := nextCell s } := by
  rw [execOver, peekDs_ok (k := 1) (by rw [hd]; rfl), ok_bind, pushDs_ok x ((hasRoom_ds_iff s).mpr hr), ← hd]
  rfl

theorem execOver_short {s : State} (h : s.ds.length < 2) :
    execOver s = .next (raise .stackUnderflow (some 0x0A) s) := by
  rw [execOver, peekDs_error (by omega)]
  rfl

theorem execOver_full {s : State} (h : 2 ≤ s.ds.length) (hf : FullDs s) :
    execOver s = .next (raise .stackOverflow (some 0x0A) s) := by
  rw [execOver, peekDs_ok (List.getElem?_eq_getElem h), ok_bind, pushDs_error _ ((hasRoom_ds_false_iff s).mpr hf)]
  rfl

/-- Settles O9: OVER looks at the second entry first and then for room. -/
theorem overCopiesSecond : Obligations.OverCopiesSecond := by
  unfold Obligations.OverCopiesSecond
  exact fun _ s => ⟨fun y x rest hd hr => execOver_cons hd hr, fun h => raises_of_eq (execOver_short h),
    fun h hf => raises_of_eq (execOver_full h hf)⟩

theorem execSwap_cons {s : State} {a b : Word} {rest : List Word} (hd : s.ds = a :: b :: rest) :
    execSwap s = .next { s with ds := b :: a :: rest, pc := nextCell s } := by
  rw [execSwap, popDs_cons hd]
  rfl

theorem execSwap_short {s : State} (h : s.ds.length < 2) :
    execSwap s = .next (raise .stackUnderflow (some 0x0C) s) := by
  match hd : s.ds with
  | [] => rw [execSwap, popDs_nil hd]; rfl
  | [a] => rw [execSwap, popDs_cons hd]; rfl
  | a :: b :: rest => rw [hd, List.length_cons, List.length_cons] at h; omega

/-- Settles O10: SWAP pops twice before it pushes, and the state of a failed second pop is the one before the step. -/
theorem swapExchangesTopTwo : Obligations.SwapExchangesTopTwo := by
  unfold Obligations.SwapExchangesTopTwo
  refine fun _ => ⟨rfl, rfl, fun s => ⟨fun a b rest hd => execSwap_cons hd, fun h => ⟨?raises, fun t ht => ?kept⟩⟩⟩
  case raises => exact raises_of_eq (execSwap_short h)
  case kept =>
    cases (execSwap_short h).symm.trans ht
    rfl

/-- A stack with room for one more after a push had room before it. -/
theorem RoomDs.of_push {s : State} {x : Word} (h : RoomDs { s with ds := x :: s.ds }) : RoomDs s := by
  refine h.imp_right fun ⟨n, hn, hlt⟩ => ⟨n, hn, ?_⟩
  exact (Nat.lt_succ_self _).trans hlt

/-- Settles O11: the outcomes of the two instructions, one after the other; the second meets the stack that the first
left, which for OVER is one entry deeper. -/
theorem stackLawSequences : Obligations.StackLawSequences := by
  unfold Obligations.StackLawSequences
  intro p q s y x rest hd
  refine ⟨fun hr => ⟨_, execDup_cons hd hr, ?dupDrop⟩, ⟨_, execSwap_cons hd, ?swapSwap⟩, fun hr => ?overOver⟩
  case dupDrop =>
    rw [show exec (.drop q) = execDrop from rfl, execDrop_cons rfl, ← hd]
  case swapSwap =>
    rw [show exec (.swap q) = execSwap from rfl, execSwap_cons rfl, ← hd]
  case overOver =>
    refine ⟨_, execOver_cons hd hr.of_push, ?_⟩
    rw [hd] at hr
    exact execOver_cons rfl hr

/-! ## Return Stack -/

theorem execRstore_cons {s : State} {v : Word} {rest : List Word} (hd : s.ds = v :: rest) (hr : RoomRs s) :
    execRstore s = .next { s with ds := rest, rs := v :: s.rs, pc := nextCell s } := by
  simp only [execRstore, popDs_cons hd, ok_bind, pushRs_ok (s := setDs rest s) v ((hasRoom_rs_iff s).mpr hr)]
  rfl

theorem execRstore_nil {s : State} (hd : s.ds = []) :
    execRstore s = .next (raise .stackUnderflow (some 0x04) s) := by
  rw [execRstore, popDs_nil hd]
  rfl

theorem execRstore_full {s : State} (hd : s.ds ≠ []) (hf : FullRs s) :
    execRstore s = .next (raise .stackOverflow (some 0x04) s) := by
  obtain ⟨v, rest, hd⟩ := List.exists_cons_of_ne_nil hd
  simp only [execRstore, popDs_cons hd, ok_bind, pushRs_error (s := setDs rest s) v ((hasRoom_rs_false_iff s).mpr hf)]
  rfl

/-- Settles O12: RSTORE pops DS first and then looks for room on RS. -/
theorem rstoreMovesTopToReturnStack : Obligations.RstoreMovesTopToReturnStack := by
  unfold Obligations.RstoreMovesTopToReturnStack
  exact fun _ s => ⟨fun v rest hd hr => execRstore_cons hd hr, fun hd => raises_of_eq (execRstore_nil hd),
    fun hd hf => raises_of_eq (execRstore_full hd hf)⟩

theorem execRfetch_cons {s : State} {v : Word} {rest : List Word} (hd : s.rs = v :: rest) (hr : RoomDs s) :
    execRfetch s = .next { s with ds := v :: s.ds, rs := rest, pc := nextCell s } := by
  simp only [execRfetch, popRs_cons hd, ok_bind, pushDs_ok (s := setRs rest s) v ((hasRoom_ds_iff s).mpr hr)]
  rfl

theorem execRfetch_nil {s : State} (hd : s.rs = []) :
    execRfetch s = .next (raise .stackUnderflow (some 0x0B) s) := by
  rw [execRfetch, popRs_nil hd]
  rfl

theorem execRfetch_full {s : State} (hd : s.rs ≠ []) (hf : FullDs s) :
    execRfetch s = .next (raise .stackOverflow (some 0x0B) s) := by
  obtain ⟨v, rest, hd⟩ := List.exists_cons_of_ne_nil hd
  simp only [execRfetch, popRs_cons hd, ok_bind, pushDs_error (s := setRs rest s) v ((hasRoom_ds_false_iff s).mpr hf)]
  rfl

/-- Settles O13: RFETCH pops RS first and then looks for room on DS. -/
theorem rfetchMovesTopToDataStack : Obligations.RfetchMovesTopToDataStack := by
  unfold Obligations.RfetchMovesTopToDataStack
  exact fun _ s => ⟨fun v rest hd hr => execRfetch_cons hd hr, fun hd => raises_of_eq (execRfetch_nil hd),
    fun hd hf => raises_of_eq (execRfetch_full hd hf)⟩

/-! ## Memory transfer -/

/-- The operand of an opcode in REQ, when there is one (30_encoding.md R88). -/
@[simp] theorem requireOperand_some (u : BitVec 16) : requireOperand (some u) = .ok u := rfl

theorem execStore_none (s : State) : execStore none s = .next (raise .noOperand (some 0x01) s) :=
  settle_error 0x01 s .noOperand

theorem execStore_nil {s : State} (u : BitVec 16) (hd : s.ds = []) :
    execStore (some u) s = .next (raise .stackUnderflow (some 0x01) s) := by
  rw [execStore, requireOperand_some, ok_bind, popDs_nil hd]
  rfl

theorem execStore_of_not_valid {s : State} {u : BitVec 16} (hd : s.ds ≠ []) (hv : ¬ valid s.segCount (opaddr u)) :
    execStore (some u) s = .next (raise .outOfBounds (some 0x01) s) := by
  obtain ⟨v, rest, hd⟩ := List.exists_cons_of_ne_nil hd
  simp only [execStore, requireOperand_some, ok_bind, popDs_cons hd, memWrite_error (s := setDs rest s) hv]
  rfl

theorem execStore_cons {s : State} {u : BitVec 16} {v : Word} {rest : List Word} (hd : s.ds = v :: rest)
    (hv : valid s.segCount (opaddr u)) :
    execStore (some u) s =
      .next { s with ds := rest, mem := s.mem.write (toFlat (opaddr u)) v, pc := nextCell s } := by
  simp only [execStore, requireOperand_some, ok_bind, popDs_cons hd, memWrite_ok (s := setDs rest s) hv]
  rfl

/-- Settles O14: STORE needs its operand, then its Word, then the cell; the fault of the last check is entered from the
state in which nothing was popped. -/
theorem storeWritesPoppedWord : Obligations.StoreWritesPoppedWord := by
  unfold Obligations.StoreWritesPoppedWord
  refine ⟨fun u => ⟨rfl, rfl⟩, rfl, fun s => ⟨raises_of_eq (execStore_none s), fun u =>
    ⟨fun hd => ?underflow, fun hd hv => ⟨?outOfBounds, fun t ht => ?kept⟩, fun v rest hd hv => execStore_cons hd hv⟩⟩⟩
  case underflow => exact raises_of_eq (execStore_nil u hd)
  case outOfBounds => exact raises_of_eq (execStore_of_not_valid hd hv)
  case kept =>
    cases (execStore_of_not_valid hd hv).symm.trans ht
    rfl

theorem execFetch_none (s : State) : execFetch none s = .next (raise .noOperand (some 0x05) s) :=
  settle_error 0x05 s .noOperand

theorem execFetch_of_not_valid {s : State} {u : BitVec 16} (hv : ¬ valid s.segCount (opaddr u)) :
    execFetch (some u) s = .next (raise .outOfBounds (some 0x05) s) := by
  rw [execFetch, requireOperand_some, ok_bind, memRead_error hv]
  rfl

theorem execFetch_full {s : State} {u : BitVec 16} (hv : valid s.segCount (opaddr u)) (hf : FullDs s) :
    execFetch (some u) s = .next (raise .stackOverflow (some 0x05) s) := by
  rw [execFetch, requireOperand_some, ok_bind, memRead_ok hv, ok_bind, pushDs_error _ ((hasRoom_ds_false_iff s).mpr hf)]
  rfl

theorem execFetch_of_valid {s : State} {u : BitVec 16} (hv : valid s.segCount (opaddr u)) (hr : RoomDs s) :
    execFetch (some u) s =
      .next { s with ds := s.mem.read (toFlat (opaddr u)) :: s.ds, pc := nextCell s } := by
  rw [execFetch, requireOperand_some, ok_bind, memRead_ok hv, ok_bind, pushDs_ok _ ((hasRoom_ds_iff s).mpr hr)]
  rfl

/-- Settles O15: FETCH needs its operand, then the cell, then room; a cell of a new engine reads as the blank cell. -/
theorem fetchPushesCell : Obligations.FetchPushesCell := by
  unfold Obligations.FetchPushesCell
  exact ⟨fun u => ⟨rfl, rfl⟩, rfl, constructed_mem_read _ _ _, fun s => ⟨raises_of_eq (execFetch_none s), fun u =>
    ⟨fun hv => raises_of_eq (execFetch_of_not_valid hv), fun hv hf => raises_of_eq (execFetch_full hv hf),
      fun hv hr => execFetch_of_valid hv hr⟩⟩⟩

theorem execLit_of_room {s : State} (hv : valid s.segCount s.pc) (hr : RoomDs s) :
    execLit s = .next { s with
      ds := s.mem.read (toFlat (nextCell s)) :: s.ds
      pc := increment s.segCount (nextCell s) } := by
  rw [execLit, lookahead, memRead_ok (increment_valid hv), ok_bind, pushDs_ok _ ((hasRoom_ds_iff s).mpr hr)]
  rfl

theorem execLit_full {s : State} (hv : valid s.segCount s.pc) (hf : FullDs s) :
    execLit s = .next (raise .stackOverflow (some 0x11) s) := by
  rw [execLit, lookahead, memRead_ok (increment_valid hv), ok_bind, pushDs_error _ ((hasRoom_ds_false_iff s).mpr hf)]
  rfl

/-- Settles O16: from a valid cursor the inline cell is valid too, so that LIT can only lack room. -/
theorem litPushesInlineCell : Obligations.LitPushesInlineCell := by
  unfold Obligations.LitPushesInlineCell
  exact fun _ => ⟨rfl, rfl, fun s hv => ⟨execLit_of_room hv, fun hf => raises_of_eq (execLit_full hv hf)⟩⟩

/-! ## Control -/

theorem execBranchIf_none (s : State) : execBranchIf none s = .next (raise .noOperand (some 0x0E) s) :=
  settle_error 0x0E s .noOperand

theorem execBranchIf_nil {s : State} (u : BitVec 16) (hd : s.ds = []) :
    execBranchIf (some u) s = .next (raise .stackUnderflow (some 0x0E) s) := by
  rw [execBranchIf, requireOperand_some, ok_bind, popDs_nil hd]
  rfl

section
variable {s : State} {u : BitVec 16} {v : Word} {rest : List Word}

theorem execBranchIf_taken (hd : s.ds = v :: rest) (ht : truthy v = true) (hv : valid s.segCount (opaddr u)) :
    execBranchIf (some u) s = .next { s with ds := rest, pc := opaddr u } := by
  simp only [execBranchIf, requireOperand_some, ok_bind, popDs_cons hd, ht, if_true,
    checkTarget_ok (s := setDs rest s) hv]
  rfl

theorem execBranchIf_of_not_valid (hd : s.ds = v :: rest) (ht : truthy v = true) (hv : ¬ valid s.segCount (opaddr u)) :
    execBranchIf (some u) s = .next (raise .outOfBounds (some 0x0E) s) := by
  simp only [execBranchIf, requireOperand_some, ok_bind, popDs_cons hd, ht, if_true,
    checkTarget_error (s := setDs rest s) hv]
  rfl

theorem execBranchIf_passed (hd : s.ds = v :: rest) (ht : truthy v = false) :
    execBranchIf (some u) s = .next { s with ds := rest, pc := nextCell s } := by
  simp only [execBranchIf, requireOperand_some, ok_bind, popDs_cons hd, ht]
  rfl

end

/-- Settles O19: IF needs its operand, then its Word; only a truthy Word leads to the check of the target. -/
theorem ifBranchesOnTruthyTop : Obligations.IfBranchesOnTruthyTop := by
  unfold Obligations.IfBranchesOnTruthyTop
  exact fun s => ⟨raises_of_eq (execBranchIf_none s), fun u => ⟨fun hd => raises_of_eq (execBranchIf_nil u hd),
    fun v rest hd => ⟨execBranchIf_taken hd, fun ht hv => raises_of_eq (execBranchIf_of_not_valid hd ht hv),
      execBranchIf_passed hd⟩⟩⟩

/-- EXIT completes from every state (45_control.md R152). -/
theorem execExit_eq (s : State) :
    execExit s = .next { s with running := false, phase := .halted, pc := nextCell s } :=
  settle_ok 0x10 s s .halt

/-- Settles O21: EXIT has one outcome, and its operand field does not reach it. -/
theorem exitHaltsTheRun : Obligations.ExitHaltsTheRun := by
  unfold Obligations.ExitHaltsTheRun
  exact fun _ => ⟨rfl, rfl, execExit_eq⟩

/-! ## Input and output -/

theorem execCin_cons {s : State} {t : Str} {rest : List Str} (hi : s.input = t :: rest) (hr : RoomDs s) :
    execCin s = .next { s with
      ds := cinConvert t :: s.ds, input := rest, inWait := false, pc := nextCell s } := by
  rw [execCin, checkRoomDs_ok ((hasRoom_ds_iff s).mpr hr), ok_bind, readToken_some hi]
  rfl

theorem execCin_nil {s : State} (hi : s.input = []) (hr : RoomDs s) :
    execCin s = .next { s with inWait := true } := by
  rw [execCin, checkRoomDs_ok ((hasRoom_ds_iff s).mpr hr), ok_bind, readToken_none hi]
  rfl

theorem execCin_full {s : State} (hf : FullDs s) : execCin s = .next (raise .stackOverflow (some 0x13) s) := by
  rw [execCin, checkRoomDs_error ((hasRoom_ds_false_iff s).mpr hf)]
  rfl

/-- Settles O23: CIN looks for room before it reads, and then whether a token is there. -/
theorem cinPushesNextTokenOrHolds : Obligations.CinPushesNextTokenOrHolds := by
  unfold Obligations.CinPushesNextTokenOrHolds
  refine fun _ s => ⟨fun t rest hi hr => execCin_cons hi hr, fun hi hr => execCin_nil hi hr,
    fun hf => ⟨raises_of_eq (execCin_full hf), fun t ht => ?kept⟩⟩
  case kept =>
    cases (execCin_full hf).symm.trans ht
    rfl

/-- STRLIT completes from every state, and only the cursor moves (46_io.md R159). -/
theorem execStrlit_eq (s : State) : execStrlit s = .next { s with pc := nextCell s } :=
  settle_ok 0x14 s s .seq

/-- Settles O24: both kinds of Word decode to STRLIT, which has one outcome. -/
theorem strlitOnlyAdvances : Obligations.StrlitOnlyAdvances := by
  unfold Obligations.StrlitOnlyAdvances
  exact ⟨fun _ => rfl, fun _ => rfl, fun _ => execStrlit_eq⟩

theorem execSout_none (s : State) : execSout none s = .next (raise .noOperand (some 0x15) s) :=
  settle_error 0x15 s .noOperand

theorem execSout_of_not_valid {s : State} {u : BitVec 16} (hv : ¬ valid s.segCount (opaddr u)) :
    execSout (some u) s = .next (raise .outOfBounds (some 0x15) s) := by
  rw [execSout, requireOperand_some, ok_bind, memRead_error hv]
  rfl

/-- A Word that is no Text has no string (46_io.md R160). -/
theorem textOf_of_not_txt {x : Word} (h : ∀ str, x ≠ .txt str) : textOf x = .error .operandType := by
  cases x with
  | txt str => exact absurd rfl (h str)
  | lit _ => rfl
  | ins _ _ => rfl

theorem execSout_of_not_txt {s : State} {u : BitVec 16} (hv : valid s.segCount (opaddr u))
    (hx : ∀ str, s.mem.read (toFlat (opaddr u)) ≠ .txt str) :
    execSout (some u) s = .next (raise .operandType (some 0x15) s) := by
  rw [execSout, requireOperand_some, ok_bind, memRead_ok hv, ok_bind, textOf_of_not_txt hx]
  rfl

theorem execSout_of_txt {s : State} {u : BitVec 16} {str : Str} (hv : valid s.segCount (opaddr u))
    (hx : s.mem.read (toFlat (opaddr u)) = .txt str) :
    execSout (some u) s = .next { s with out := s.out ++ [str], pc := nextCell s } := by
  rw [execSout, requireOperand_some, ok_bind, memRead_ok hv, ok_bind, hx]
  rfl

/-- Settles O25: SOUT needs its operand, then the cell, then a Text in it. -/
theorem soutEmitsAddressedText : Obligations.SoutEmitsAddressedText := by
  unfold Obligations.SoutEmitsAddressedText
  exact fun s => ⟨raises_of_eq (execSout_none s), fun u => ⟨fun hv => raises_of_eq (execSout_of_not_valid hv),
    fun hv hx => raises_of_eq (execSout_of_not_txt hv hx), fun str hv hx => execSout_of_txt hv hx⟩⟩

/-! ## The ignored operand -/

/-- Outside REQ an instruction acts as the one that its opcode alone decodes to (30_encoding.md R87). -/
theorem exec_eq_exec_of_opcode {i : Instr} (h : requiresOperand i.opcode = false) :
    ∃ j, decodeIns i.opcode none = .ok j ∧ exec i = exec j := by
  cases i with
  | store _ => cases h
  | fetch _ => cases h
  | branchIf _ => cases h
  | call _ => cases h
  | sout _ => cases h
  | _ => exact ⟨_, rfl, rfl⟩

/-- Settles O30: two instructions of one opcode act as the same third one. -/
theorem ignoredOperandChangesNothing : Obligations.IgnoredOperandChangesNothing := by
  unfold Obligations.IgnoredOperandChangesNothing
  intro i j hop hreq s
  obtain ⟨i', hi, hei⟩ := exec_eq_exec_of_opcode hreq
  obtain ⟨j', hj, hej⟩ := exec_eq_exec_of_opcode (hop ▸ hreq)
  rw [hop, hj] at hi
  cases hi
  rw [hei, hej]

end Sys2Proof.Machine
end

section
/-! PROOFS. One step, by what the cell at the cursor decodes to (40_fetch_decode_execute.md R114 to R117). -/

namespace Sys2Proof.Machine

/-- Settles O31: the fetch of a valid cursor gives the cell, and a running engine executes what that decodes to. -/
theorem stepRunsTheDecodedInstruction : Obligations.StepRunsTheDecodedInstruction := by
  unfold Obligations.StepRunsTheDecodedInstruction
  exact fun _ _ hr hv hd => step_decoded hr hv hd

/-- An opcode of REQ in a Word without an operand (30_encoding.md R88). -/
theorem decodeIns_none_of_requires {op : BitVec 8} (h : op ∈ [(0x01 : BitVec 8), 0x05, 0x0E, 0x0F, 0x15]) :
    decodeIns op none = .error .noOperand := by
  decide +revert

/-- Settles O32: each of the three cells has its decode error, and the step enters that error's fault. -/
theorem undecodableCellFaults : Obligations.UndecodableCellFaults := by
  unfold Obligations.UndecodableCellFaults
  refine fun s hr hv => ⟨fun op operand hc hop => ?aboveTheMap, fun v hc => ?literal, fun op hc hop => ?noOperand⟩
  case aboveTheMap =>
    have hd : decode (cellAtCursor s) = .error .unknownOpcode := by rw [hc]; exact decodeIns_of_gt operand hop
    rw [step_undecodable hr hv hd, hc]
    rfl
  case literal =>
    have hd : decode (cellAtCursor s) = .error .unknownOpcode := by rw [hc]; rfl
    rw [step_undecodable hr hv hd, hc]
    rfl
  case noOperand =>
    have hd : decode (cellAtCursor s) = .error .noOperand := by rw [hc]; exact decodeIns_none_of_requires hop
    rw [step_undecodable hr hv hd, hc]
    rfl

/-- Settles O33: a step of a stopped engine is idle. -/
theorem stoppedEngineStays : Obligations.StoppedEngineStays := by
  unfold Obligations.StoppedEngineStays
  exact fun _ h => step_stopped h

/-- Settles O17: the step is the STORE's, which leaves the cursor at the cell it wrote, and the read of a cell just
written gives the Word written. -/
theorem storedWordIsFetchedNext : Obligations.StoredWordIsFetchedNext := by
  unfold Obligations.StoredWordIsFetchedNext
  intro s u w rest hm hr hv hc hu hd
  have hnext : valid s.segCount (opaddr u) := hu ▸ increment_valid hv
  have hstep : step s = execStore (some u) s := step_decoded (i := .store (some u)) hr hv (by rw [hc]; rfl)
  rw [execStore_cons hd hnext] at hstep
  refine ⟨_, hstep, hr, hu.symm, ?_⟩
  rw [fetchCell_of_valid (increment_valid hv), cellAtCursor, ← hu, Memory.read_write_same _ _ _ hm]

end Sys2Proof.Machine
end

section
/-! PROOFS. What an instruction leaves alone: one lemma per part of the state, over the ways to complete. -/

namespace Sys2Proof.Machine

section
variable {s t : State} {i : Instr}

/-! ## The parts of the state -/

/-- Only a STORE writes memory (20_memory.md R58). -/
theorem Completed.mem_eq (h : Completed s i t) (hi : ∀ u, i ≠ .store (some u)) : t.mem = s.mem := by
  cases h with
  | store u _ _ _ _ => exact absurd rfl (hi u)
  | _ => rfl

/-- SEGCOUNT, the depth parameters and FILLCNT (10_state.md R32, R35). -/
theorem Completed.parameters (h : Completed s i t) :
    t.segCount = s.segCount ∧ t.dsDepth = s.dsDepth ∧ t.rsDepth = s.rsDepth ∧ t.fillCnt = s.fillCnt := by
  cases h <;> exact ⟨rfl, rfl, rfl, rfl⟩

/-- RS is left alone outside its two transfers (43_return_stack.md R144). -/
theorem Completed.rs_eq (h : Completed s i t) (hi : ∀ o, i ≠ .rstore o ∧ i ≠ .rfetch o) : t.rs = s.rs := by
  cases h with
  | rstore o _ _ _ _ => exact absurd rfl (hi o).1
  | rfetch o _ _ _ _ => exact absurd rfl (hi o).2
  | _ => rfl

/-- OUT is left alone outside COUT and SOUT (10_state.md R37). -/
theorem Completed.out_eq (h : Completed s i t) (hi : ∀ o, i ≠ .cout o ∧ i ≠ .sout o) : t.out = s.out := by
  cases h with
  | cout o _ _ _ => exact absurd rfl (hi o).1
  | sout u _ _ _ => exact absurd rfl (hi (some u)).2
  | _ => rfl

/-- OUT gains at most one string (10_state.md R37). -/
theorem Completed.out_grows (h : Completed s i t) : t.out = s.out ∨ ∃ str, t.out = s.out ++ [str] := by
  cases h with
  | cout _ x _ _ => exact .inr ⟨render x, rfl⟩
  | sout _ str _ _ => exact .inr ⟨str, rfl⟩
  | _ => exact .inl rfl

/-- IN and INWAIT are left alone outside CIN (10_state.md R36). -/
theorem Completed.input_eq (h : Completed s i t) (hi : ∀ o, i ≠ .cin o) : t.input = s.input ∧ t.inWait = s.inWait := by
  cases h with
  | cinHolds o _ _ => exact absurd rfl (hi o)
  | cinReads o _ _ _ _ => exact absurd rfl (hi o)
  | _ => exact ⟨rfl, rfl⟩

/-- DS is left alone by the instructions that take nothing from it and give nothing to it. -/
theorem Completed.ds_eq (h : Completed s i t)
    (hi : ∃ o f, i = .nop o ∨ i = .call o ∨ i = .exit o ∨ i = .strlit f ∨ i = .sout o) : t.ds = s.ds := by
  obtain ⟨o, f, rfl | rfl | rfl | rfl | rfl⟩ := hi <;> cases h <;> rfl

/-- RUNNING, PHASE and FAULT are left alone outside EXIT (40_fetch_decode_execute.md R118). -/
theorem Completed.control_eq (h : Completed s i t) (hi : ∀ o, i ≠ .exit o) :
    t.running = s.running ∧ t.phase = s.phase ∧ t.fault = s.fault := by
  cases h with
  | exit o => exact absurd rfl (hi o)
  | _ => exact ⟨rfl, rfl, rfl⟩

/-- A completion goes on with the run, or is EXIT's and ends it. -/
theorem Completed.goes_on_or_exits (h : Completed s i t) :
    (t.running = s.running ∧ t.phase = s.phase ∧ t.fault = s.fault) ∨
    ((∃ o, i = .exit o) ∧ t.running = false ∧ t.phase = .halted ∧ t.fault = s.fault) := by
  by_cases hi : ∃ o, i = .exit o
  · obtain ⟨o, rfl⟩ := hi
    cases h
    exact .inr ⟨⟨o, rfl⟩, rfl, rfl, rfl⟩
  · exact .inl (h.control_eq fun o ho => hi ⟨o, ho⟩)

/-- EXIT always ends the run, and never by a fault (45_control.md R152). -/
theorem exec_exit_control {o : Option (BitVec 16)} (h : exec (.exit o) s = .next t) :
    t.running = false ∧ t.phase = .halted ∧ t.fault = s.fault := by
  cases (execExit_eq s).symm.trans h
  exact ⟨rfl, rfl, rfl⟩

/-! ## The obligations on frames -/

/-- A read looks at SEGCOUNT and at memory only. -/
theorem memRead_congr (a : Address) (hseg : t.segCount = s.segCount) (hmem : t.mem = s.mem) :
    memRead a t = memRead a s := by
  rw [memRead, memRead, hseg, hmem]

end

/-- Settles O27: a fault and a completion outside STORE leave memory as it is; a STORE's write leaves every other
cell. -/
theorem onlyStoreWritesMemory : Obligations.OnlyStoreWritesMemory := by
  unfold Obligations.OnlyStoreWritesMemory
  intro i s t h a ha
  rcases exec_next_cases h with ⟨k, rfl⟩ | hc
  case inl => rfl
  case inr =>
    by_cases hi : ∃ u, i = .store (some u)
    · obtain ⟨u, rfl⟩ := hi
      cases hc with
      | store u v rest hd hv =>
        have hw := memWrite_ok (w := v) hv
        exact (memRead_congr (s := setMem (s.mem.write (toFlat (opaddr u)) v) s) a rfl rfl).trans
          (memRead_memWrite_ne hw (ha u rfl))
    · exact memRead_congr a hc.parameters.1 (hc.mem_eq fun u hu => hi ⟨u, hu⟩)

/-- Settles O28: fault entry changes the record, RUNNING and PHASE only, and a completion leaves each part of the state
to the instructions named. -/
theorem otherStateIsLeftAlone : Obligations.OtherStateIsLeftAlone := by
  unfold Obligations.OtherStateIsLeftAlone
  intro i s t h
  have hexit : (∃ o, i = .exit o) → t.running = false ∧ t.phase = .halted ∧ t.fault = s.fault := by
    rintro ⟨o, rfl⟩
    exact exec_exit_control h
  rcases exec_next_cases h with ⟨k, rfl⟩ | hc
  case inl =>
    refine ⟨rfl, rfl, rfl, rfl, fun _ => rfl, .inl rfl, fun _ => rfl, fun _ => ⟨rfl, rfl⟩, fun _ => rfl,
      fun _ => .inr ⟨k, rfl⟩, hexit⟩
  case inr =>
    obtain ⟨hseg, hds, hrs, hfill⟩ := hc.parameters
    refine ⟨hseg, hds, hrs, hfill, hc.rs_eq, hc.out_grows, hc.out_eq, hc.input_eq, hc.ds_eq,
      fun hi => .inl (hc.control_eq hi), hexit⟩

/-- Settles O29: a fault records itself and leaves the cursor; the completions move it as their instruction says. -/
theorem cursorMoves : Obligations.CursorMoves := by
  unfold Obligations.CursorMoves
  intro i s t hf h
  rcases exec_next_cases h with ⟨k, rfl⟩ | hc
  case inl => exact ⟨fun _ => rfl, fun hn => nomatch hn⟩
  case inr =>
    have hnone : t.fault = none := by
      rcases hc.goes_on_or_exits with ⟨-, -, ht⟩ | ⟨-, -, -, ht⟩ <;> rw [ht, hf]
    refine ⟨fun hn => absurd hnone hn, fun _ => ⟨?call, ?branch, ?lit, ?hold, ?next⟩⟩
    case call =>
      rintro u rfl
      cases hc
      rfl
    case branch =>
      rintro u v rest rfl hd
      cases hc with
      | branchTaken _ w _ hd' ht _ =>
        cases hd.symm.trans hd'
        rw [if_pos ht]
      | branchPassed _ w _ hd' ht =>
        cases hd.symm.trans hd'
        rw [if_neg (by simp [ht])]
    case lit =>
      rintro o rfl
      cases hc
      rfl
    case hold =>
      rintro o rfl hi
      cases hc with
      | cinHolds _ _ _ => rfl
      | cinReads _ _ _ hi' _ => cases hi.symm.trans hi'
    case next =>
      intro hi hcin
      cases hc with
      | call u _ => exact absurd rfl (hi (some u)).1
      | branchTaken u _ _ _ _ _ => exact absurd rfl (hi (some u)).2.1
      | lit o _ _ => exact absurd rfl (hi o).2.2
      | cinHolds o hin _ => exact absurd hin (hcin o rfl)
      | _ => rfl

/-! ## Ends of a run -/

/-- Settles O34: a step that ends Faulted entered a fault, since a completion of a running engine goes on or halts. -/
theorem faultingStepCommitsNothing : Obligations.FaultingStepCommitsNothing := by
  unfold Obligations.FaultingStepCommitsNothing
  intro s t hl hr h hp
  have hrun : s.phase = .running := hl.runningPhase.mp hr
  rcases step_next_cases h with ⟨hstop, -⟩ | ⟨-, -, ⟨e, -, rfl⟩ | ⟨i, hd, ⟨k, rfl⟩ | hc⟩⟩
  · rw [hr] at hstop
    cases hstop
  · exact ⟨_, rfl⟩
  · exact ⟨k, by rw [decodeOpcode_of_decode hd]; rfl⟩
  · rcases hc.goes_on_or_exits with ⟨-, ht, -⟩ | ⟨-, -, ht, -⟩ <;> simp [ht, hrun] at hp

/-- Settles O35: the step of a running engine enters a fault, goes on, or is EXIT's. -/
theorem runEndsOnlyByExitOrFault : Obligations.RunEndsOnlyByExitOrFault := by
  unfold Obligations.RunEndsOnlyByExitOrFault
  intro s t hr h hend
  rcases step_next_cases h with ⟨hstop, -⟩ | ⟨-, -, ⟨e, -, rfl⟩ | ⟨i, hd, ⟨k, rfl⟩ | hc⟩⟩
  · rw [hr] at hstop
    cases hstop
  · exact .inr ⟨rfl, _, rfl, rfl⟩
  · exact .inr ⟨rfl, _, rfl, rfl⟩
  · rcases hc.goes_on_or_exits with ⟨ht, -, -⟩ | ⟨⟨o, rfl⟩, -, hp, -⟩
    · rw [hend, hr] at ht
      cases ht
    · exact .inl ⟨⟨o, hd⟩, hp⟩

end Sys2Proof.Machine
end

section
/-! PROOFS. The host calls of 60_exceptions.md R180: when each answers, and with which state. -/

namespace Sys2Proof.Machine

/-- The state after `fill_next` (20_memory.md R59). -/
def filled (w : Word) (s : State) : State :=
  { s with mem := s.mem.write (toFlat s.pc) w, pc := nextCell s, fillCnt := s.fillCnt + 1 }

theorem construct_of_mem {n : BitVec 8} (d r : Capacity) (h : 1 ≤ n.toNat ∧ n.toNat ≤ Config.maxSegments) :
    construct n d r = .ok (State.constructed n.toNat d r) := if_pos h

theorem construct_of_not_mem {n : BitVec 8} (d r : Capacity) (h : ¬ (1 ≤ n.toNat ∧ n.toNat ≤ Config.maxSegments)) :
    construct n d r = .error .tooMuchMemoryRequested := if_neg h

theorem construct_eq_ok_iff {n : BitVec 8} {d r : Capacity} {s : State} :
    construct n d r = .ok s ↔
      (1 ≤ n.toNat ∧ n.toNat ≤ Config.maxSegments) ∧ s = State.constructed n.toNat d r := by
  by_cases h : 1 ≤ n.toNat ∧ n.toNat ≤ Config.maxSegments
  · rw [construct_of_mem d r h, Except.ok.injEq, and_iff_right h, eq_comm]
  · simp [construct_of_not_mem d r h, h]

theorem fillNext_not_loading (w : Word) {s : State} (h : s.phase ≠ .loading) : fillNext w s = .error .notLoading :=
  if_pos h

theorem fillNext_full (w : Word) {s : State} (h : s.phase = .loading) (hc : s.fillCnt = capacity s.segCount) :
    fillNext w s = .error .outOfBounds := by
  rw [fillNext, if_neg (not_not.mpr h), if_pos hc]

theorem fillNext_ok (w : Word) {s : State} (h : s.phase = .loading) (hc : s.fillCnt ≠ capacity s.segCount) :
    fillNext w s = .ok (filled w s) := by
  rw [fillNext, if_neg (not_not.mpr h), if_neg hc]
  rfl

theorem fillNext_eq_ok_iff {w : Word} {s t : State} :
    fillNext w s = .ok t ↔ s.phase = .loading ∧ s.fillCnt ≠ capacity s.segCount ∧ t = filled w s := by
  by_cases hp : s.phase = .loading
  · by_cases hc : s.fillCnt = capacity s.segCount
    · simp [fillNext_full w hp hc, hc]
    · rw [fillNext_ok w hp hc, Except.ok.injEq, and_iff_right hp, and_iff_right hc, eq_comm]
  · simp [fillNext_not_loading w hp, hp]

theorem runEntry_busy {s : State} (h : s.phase = .running) : runEntry s = .error .busy := if_pos h

theorem runEntry_ok {s : State} (h : s.phase ≠ .running) : runEntry s = .ok (startRunning (setPc Address.origin s)) :=
  if_neg h

theorem runEntry_eq_ok_iff {s t : State} :
    runEntry s = .ok t ↔ s.phase ≠ .running ∧ t = startRunning (setPc Address.origin s) := by
  by_cases hp : s.phase = .running
  · simp [runEntry_busy hp, hp]
  · rw [runEntry_ok hp, Except.ok.injEq, and_iff_right hp, eq_comm]

/-- A supplied string changes IN at most. -/
theorem supplyToken_of_isToken {token : Str} (s : State) (h : isToken token = true) :
    supplyToken token s = setInput (s.input ++ [token]) s := if_pos h

theorem supplyToken_of_not_isToken {token : Str} (s : State) (h : ¬ isToken token = true) :
    supplyToken token s = s := if_neg h

/-- Settles O55: the range check is that of the rule, and the state it lets through is the constructed one, whose memory
is blank. -/
theorem constructionGivesTheResetState : Obligations.ConstructionGivesTheResetState := by
  unfold Obligations.ConstructionGivesTheResetState
  refine fun n d r => ⟨fun h => construct_of_not_mem d r (by unfold Config.maxSegments; omega), fun h1 h16 =>
    ⟨_, construct_of_mem d r ⟨h1, h16⟩, rfl, rfl, rfl, fun a hv => ?blank, rfl, rfl, rfl, rfl, rfl, rfl, rfl, rfl, rfl,
      rfl⟩⟩
  case blank =>
    rw [memRead_ok hv, constructed_mem_read]
    rfl

/-- Settles O56: the three outcomes of `fill_next`, and `inspect` in phase Running. -/
theorem fillNextLoadsAtTheCursor : Obligations.FillNextLoadsAtTheCursor := by
  unfold Obligations.FillNextLoadsAtTheCursor
  exact fun s w => ⟨fillNext_not_loading w, fillNext_full w, fillNext_ok w, fun h => if_pos h⟩

/-- Settles O58: the two outcomes of `run()` entry. -/
theorem runEntryResetsTheCursor : Obligations.RunEntryResetsTheCursor := by
  unfold Obligations.RunEntryResetsTheCursor
  exact fun s => ⟨runEntry_busy, runEntry_ok⟩

/-- Settles O36: a step that changes PHASE enters a fault or is EXIT's, of a running engine; a host call that changes it
is `run()`. -/
theorem phaseTransitions : Obligations.PhaseTransitions := by
  unfold Obligations.PhaseTransitions
  refine fun s hl => ⟨fun t h => ?step, fun c t h => ?call⟩
  case step =>
    rcases step_next_cases h with ⟨-, rfl⟩ | ⟨hr, -, hc⟩
    · exact .inl rfl
    · have hrun : s.phase = .running := hl.runningPhase.mp hr
      rcases hc with ⟨e, -, rfl⟩ | ⟨i, -, ⟨k, rfl⟩ | hc⟩
      · exact .inr ⟨hrun, .inr rfl⟩
      · exact .inr ⟨hrun, .inr rfl⟩
      · rcases hc.goes_on_or_exits with ⟨-, hp, -⟩ | ⟨-, -, hp, -⟩
        · exact .inl hp
        · exact .inr ⟨hrun, .inl hp⟩
  case call =>
    cases c with
    | fill w =>
      obtain ⟨-, -, rfl⟩ := fillNext_eq_ok_iff.mp h
      exact .inl rfl
    | run =>
      obtain ⟨hp, rfl⟩ := runEntry_eq_ok_iff.mp h
      exact .inr ⟨rfl, hp, rfl⟩
    | token token =>
      cases h
      by_cases ht : isToken token = true
      · rw [supplyToken_of_isToken s ht]; exact .inl rfl
      · rw [supplyToken_of_not_isToken s ht]; exact .inl rfl

end Sys2Proof.Machine
end

section
/-! PROOFS. The legal-state invariant: construction establishes it, every step and every host call keeps it. -/

namespace Sys2Proof.Machine

/-! ## Counting cells -/

/-- The flat number of the successor is the successor modulo CAPACITY (40_fetch_decode_execute.md R112). -/
theorem toFlat_increment_mod {n : Nat} {a : Address} (hn : n ≤ Config.maxSegments) (h : valid n a) :
    toFlat (increment n a) = (toFlat a + 1) % capacity n := by
  have hlt := toFlat_lt h
  rw [toFlat_increment hn h]
  split
  next hlast => rw [hlast, Nat.mod_self]
  next hinner => exact (Nat.mod_eq_of_lt (by omega)).symm

/-! ## What a legal state gives -/

section
variable {s t : State}

theorem Legal.phase_running (h : Legal s) (hr : s.running = true) : s.phase = .running := h.runningPhase.mp hr

theorem Legal.fault_none (h : Legal s) (hp : s.phase ≠ .faulted) : s.fault = none :=
  Option.not_isSome_iff_eq_none.mp (mt h.faultPhase.mp hp)

theorem Legal.not_waiting (h : Legal s) (hr : s.running = false) : s.inWait = false :=
  Bool.eq_false_iff.mpr fun hw => by
    obtain ⟨hrun, -, -⟩ := h.waiting hw
    rw [hr] at hrun
    cases hrun

theorem Legal.next_valid (h : Legal s) : valid s.segCount (nextCell s) := increment_valid h.cursorValid

/-- The address (0,0) is always a cell (20_memory.md R56). -/
theorem Legal.origin_valid (h : Legal s) : valid s.segCount Address.origin :=
  ⟨h.segments.1, Nat.zero_lt_succ _⟩

theorem Legal.ds_shrinks (h : Legal s) {d : List Word} (hle : d.length ≤ s.ds.length) :
    withinCapacity s.dsDepth d.length = true := withinCapacity_mono h.dsWithin hle

/-- A Word with opcode 0x13 decodes to CIN (30_encoding.md R82). -/
theorem decode_cin_of_decodeOpcode {w : Word} (h : decodeOpcode w = some 0x13) : ∃ o, decode w = .ok (.cin o) := by
  cases w with
  | ins op o =>
    cases h
    exact ⟨o, rfl⟩
  | lit _ => cases h
  | txt _ => cases h

/-- The step of a waiting engine is a CIN with room. -/
theorem Legal.step_of_waiting (h : Legal s) (hw : s.inWait = true) :
    s.running = true ∧ RoomDs s ∧ (∃ o, decode (cellAtCursor s) = .ok (.cin o)) ∧ step s = execCin s := by
  obtain ⟨hr, hc, hroom⟩ := h.waiting hw
  obtain ⟨o, hd⟩ := decode_cin_of_decodeOpcode hc
  exact ⟨hr, (hasRoom_ds_iff s).mp hroom, ⟨o, hd⟩, step_decoded hr h.cursorValid hd⟩

/-- The step of a waiting engine completes. -/
theorem Legal.step_phase_of_waiting (h : Legal s) (hw : s.inWait = true) (hstep : step s = .next t) :
    t.phase = s.phase := by
  obtain ⟨-, hroom, -, hcin⟩ := h.step_of_waiting hw
  cases hi : s.input with
  | nil =>
    cases (execCin_nil hi hroom).symm.trans (hcin.symm.trans hstep)
    rfl
  | cons token rest =>
    cases (execCin_cons hi hroom).symm.trans (hcin.symm.trans hstep)
    rfl

/-- An engine whose step faults was not waiting. -/
theorem Legal.not_waiting_of_faulting (h : Legal s) (hr : s.running = true) (hstep : step s = .next t)
    (hp : t.phase = .faulted) : s.inWait = false :=
  Bool.eq_false_iff.mpr fun hw => by
    have := h.step_phase_of_waiting hw hstep
    rw [hp, h.phase_running hr] at this
    cases this

/-! ## Steps -/

/-- Fault entry keeps the invariant. -/
theorem Legal.raise (h : Legal s) (hw : s.inWait = false) (k : FaultKind) :
    Legal (raise k (decodeOpcode (cellAtCursor s)) s) :=
  { h with
    runningPhase := by simp
    faultPhase := by simp
    faultRecord := by simp [cellAtCursor]
    loading := by simp
    waiting := by simp [hw] }

/-- A running state stays legal when its cursor, memory, stacks, OUT and IN change within their bounds and it does not
wait. -/
theorem Legal.update (h : Legal s) (hr : s.running = true) {mem : Memory} {pc : Address} {ds rs : List Word}
    {out input : List Str} {waits : Bool} (hpc : valid s.segCount pc) (hmem : mem.wf)
    (hinside : ∀ e ∈ mem, e.1 < capacity s.segCount) (hds : withinCapacity s.dsDepth ds.length = true)
    (hrs : withinCapacity s.rsDepth rs.length = true) (hinput : ∀ token ∈ input, isToken token = true)
    (hw : waits = false) :
    Legal { s with mem := mem, pc := pc, ds := ds, rs := rs, out := out, input := input, inWait := waits } :=
  have hp : s.phase = .running := h.phase_running hr
  { h with
    cursorValid := hpc
    memCanonical := hmem
    memInside := hinside
    dsWithin := hds
    rsWithin := hrs
    faultRecord := by simp [h.fault_none (by simp [hp])]
    loading := by simp [hp]
    waiting := by simp [hw]
    tokens := hinput }

/-- The same when only the cursor, DS and OUT change. -/
theorem Legal.move (h : Legal s) (hr : s.running = true) (hw : s.inWait = false) {pc : Address} {ds : List Word}
    {out : List Str} (hpc : valid s.segCount pc) (hds : withinCapacity s.dsDepth ds.length = true) :
    Legal { s with pc := pc, ds := ds, out := out } :=
  h.update hr hpc h.memCanonical h.memInside hds h.rsWithin h.tokens hw

/-- A CIN that holds keeps the invariant (10_state.md R36). -/
theorem Legal.hold (h : Legal s) (hr : s.running = true) (hc : decodeOpcode (cellAtCursor s) = some 0x13)
    (hroom : hasRoom s.dsDepth s.ds.length = true) : Legal { s with inWait := true } :=
  { h with waiting := fun _ => ⟨hr, hc, hroom⟩ }

/-- EXIT keeps the invariant. -/
theorem Legal.halt (h : Legal s) (hr : s.running = true) (hw : s.inWait = false) :
    Legal { s with running := false, phase := .halted, pc := nextCell s } :=
  have hf : s.fault = none := h.fault_none (by simp [h.phase_running hr])
  { h with
    cursorValid := h.next_valid
    runningPhase := by simp
    faultPhase := by simp [hf]
    faultRecord := by simp [hf]
    loading := by simp
    waiting := by simp [hw] }

/-- Every completion keeps the invariant. -/
theorem Legal.complete {i : Instr} (h : Legal s) (hr : s.running = true) (hd : decode (cellAtCursor s) = .ok i)
    (hc : Completed s i t) : Legal t := by
  have hw : (∀ o, i ≠ .cin o) → s.inWait = false := fun hi => Bool.eq_false_iff.mpr fun hwait => by
    obtain ⟨-, -, ⟨o, hcin⟩, -⟩ := h.step_of_waiting hwait
    exact hi o (Except.ok.inj (hd.symm.trans hcin))
  have hop : decodeOpcode (cellAtCursor s) = some i.opcode := decodeOpcode_of_decode hd
  cases hc with
  | nop o => exact h.move hr (hw (by simp)) h.next_valid h.dsWithin
  | strlit f => exact h.move hr (hw (by simp)) h.next_valid h.dsWithin
  | exit o => exact h.halt hr (hw (by simp))
  | store u v rest hds hv =>
    exact h.update hr h.next_valid (Memory.write_wf _ _ h.memCanonical)
      (Memory.write_inside _ h.memInside (toFlat_lt hv)) (h.ds_shrinks (by simp [hds])) h.rsWithin h.tokens
      (hw (by simp))
  | add o a b rest hds => exact h.move hr (hw (by simp)) h.next_valid (h.ds_shrinks (by simp [hds]))
  | sub o a b rest hds => exact h.move hr (hw (by simp)) h.next_valid (h.ds_shrinks (by simp [hds]))
  | and o a b rest hds => exact h.move hr (hw (by simp)) h.next_valid (h.ds_shrinks (by simp [hds]))
  | or o a b rest hds => exact h.move hr (hw (by simp)) h.next_valid (h.ds_shrinks (by simp [hds]))
  | xor o a b rest hds => exact h.move hr (hw (by simp)) h.next_valid (h.ds_shrinks (by simp [hds]))
  | drop o x rest hds => exact h.move hr (hw (by simp)) h.next_valid (h.ds_shrinks (by simp [hds]))
  | swap o a b rest hds => exact h.move hr (hw (by simp)) h.next_valid (h.ds_shrinks (by simp [hds]))
  | cout o x rest hds => exact h.move hr (hw (by simp)) h.next_valid (h.ds_shrinks (by simp [hds]))
  | branchTaken u v rest hds ht hv => exact h.move hr (hw (by simp)) hv (h.ds_shrinks (by simp [hds]))
  | branchPassed u v rest hds ht => exact h.move hr (hw (by simp)) h.next_valid (h.ds_shrinks (by simp [hds]))
  | call u hv => exact h.move hr (hw (by simp)) hv h.dsWithin
  | sout u str hv ht => exact h.move hr (hw (by simp)) h.next_valid h.dsWithin
  | dup o x rest hds hroom => exact h.move hr (hw (by simp)) h.next_valid (withinCapacity_succ hroom)
  | copyOver o y x rest hds hroom => exact h.move hr (hw (by simp)) h.next_valid (withinCapacity_succ hroom)
  | fetch u hv hroom => exact h.move hr (hw (by simp)) h.next_valid (withinCapacity_succ hroom)
  | lit o hv hroom => exact h.move hr (hw (by simp)) (increment_valid hv) (withinCapacity_succ hroom)
  | rstore o v rest hds hroom =>
    exact h.update hr h.next_valid h.memCanonical h.memInside (h.ds_shrinks (by simp [hds]))
      (withinCapacity_succ hroom) h.tokens (hw (by simp))
  | rfetch o v rest hrs hroom =>
    exact h.update hr h.next_valid h.memCanonical h.memInside (withinCapacity_succ hroom)
      (withinCapacity_mono h.rsWithin (by simp [hrs])) h.tokens (hw (by simp))
  | cinHolds o hi hroom => exact h.hold hr hop hroom
  | cinReads o token rest hi hroom =>
    exact h.update hr h.next_valid h.memCanonical h.memInside (withinCapacity_succ hroom) h.rsWithin
      (fun x hx => h.tokens x (by simp [hi, hx])) rfl

end

/-- Settles O40: a step leaves a stopped engine, enters a fault, or completes the decoded instruction, and each of these
keeps the invariant; only an engine that does not wait can fault. -/
theorem stepKeepsLegal : Obligations.StepKeepsLegal := by
  unfold Obligations.StepKeepsLegal
  intro s t hl h
  rcases step_next_cases h with ⟨-, rfl⟩ | ⟨hr, -, ⟨e, -, rfl⟩ | ⟨i, hd, ⟨k, rfl⟩ | hc⟩⟩
  · exact hl
  · exact hl.raise (hl.not_waiting_of_faulting hr h rfl) _
  · have := hl.raise (hl.not_waiting_of_faulting hr h rfl) k
    rwa [decodeOpcode_of_decode hd] at this
  · exact hl.complete hr hd hc

/-- Settles O41: a stopped engine stays; a running one has a valid cursor, whose cell decodes to an instruction, which
answers, or to a fault. -/
theorem legalStateAlwaysSteps : Obligations.LegalStateAlwaysSteps := by
  unfold Obligations.LegalStateAlwaysSteps
  intro s hl
  cases hr : s.running with
  | false => exact ⟨s, step_stopped hr⟩
  | true =>
    cases hd : decode (cellAtCursor s) with
    | error e => exact ⟨_, step_undecodable hr hl.cursorValid hd⟩
    | ok i =>
      obtain ⟨t, ht⟩ := exec_answers_next i s
      exact ⟨t, (step_decoded hr hl.cursorValid hd).trans ht⟩

/-- Settles O37: the step of a waiting engine is its CIN's, which holds while IN is empty and reads the token that was
supplied. -/
theorem waitingCinHoldsUntilToken : Obligations.WaitingCinHoldsUntilToken := by
  unfold Obligations.WaitingCinHoldsUntilToken
  intro s hl hw hi
  obtain ⟨hr, hroom, ⟨o, hd⟩, hstep⟩ := hl.step_of_waiting hw
  refine ⟨?hold, fun token ht => ?token⟩
  case hold =>
    calc step s = .next { s with inWait := true } := hstep.trans (execCin_nil hi hroom)
      _ = .next s := by rw [← hw]
  case token =>
    rw [supplyToken_of_isToken s ht, hi, List.nil_append]
    calc step (setInput [token] s)
        = execCin (setInput [token] s) := step_decoded (i := .cin o) hr hl.cursorValid hd
      _ = .next { setInput [] s with ds := cinConvert token :: s.ds, inWait := false, pc := nextCell s } :=
          execCin_cons rfl hroom
      _ = _ := by rw [← hi]; rfl

/-! ## Construction and host calls -/

/-- Every stack's capacity admits the empty stack. -/
theorem withinCapacity_zero (c : Capacity) : withinCapacity c 0 = true := by
  cases c <;> simp [withinCapacity]

theorem legal_constructed {n : Nat} (d r : Capacity) (h : 1 ≤ n ∧ n ≤ Config.maxSegments) :
    Legal (State.constructed n d r) where
  segments := h
  cursorValid := ⟨h.1, Nat.zero_lt_succ _⟩
  memCanonical := ⟨.nil, nofun⟩
  memInside := by simp [State.constructed]
  dsWithin := withinCapacity_zero d
  rsWithin := withinCapacity_zero r
  runningPhase := by simp [State.constructed]
  faultPhase := by simp [State.constructed]
  faultRecord := by simp [State.constructed]
  fillCount := Nat.zero_le _
  loading := fun _ => ⟨by simp [State.constructed, toFlat], rfl, rfl, rfl⟩
  waiting := by simp [State.constructed]
  tokens := by simp [State.constructed]

/-- Settles O39: the machine of `State.reset` is a constructed one. -/
theorem legalHoldsAtReset : Obligations.LegalHoldsAtReset := by
  unfold Obligations.LegalHoldsAtReset
  exact legal_constructed _ _ (by decide)

section
variable {s : State}

/-- While Loading with room left, the cursor's flat number is FILLCNT (20_memory.md R60). -/
theorem Legal.toFlat_pc_of_loading (h : Legal s) (hp : s.phase = .loading) (hc : s.fillCnt ≠ capacity s.segCount) :
    s.fillCnt < capacity s.segCount ∧ toFlat s.pc = s.fillCnt := by
  have hlt := lt_of_le_of_ne h.fillCount hc
  obtain ⟨hpc, -, -, -⟩ := h.loading hp
  exact ⟨hlt, hpc.trans (Nat.mod_eq_of_lt hlt)⟩

/-- `fill_next` keeps the invariant: the cursor goes on with the count, and returns to the first cell with the last. -/
theorem Legal.filled (h : Legal s) (w : Word) (hp : s.phase = .loading) (hc : s.fillCnt ≠ capacity s.segCount) :
    Legal (filled w s) := by
  obtain ⟨hlt, hpc⟩ := h.toFlat_pc_of_loading hp hc
  obtain ⟨-, hds, hrs, hout⟩ := h.loading hp
  have hnext : toFlat (nextCell s) = (s.fillCnt + 1) % capacity s.segCount := by
    rw [toFlat_increment_mod h.segments.2 h.cursorValid, hpc]
  have hrun : s.running = false := Bool.eq_false_iff.mpr (mt h.phase_running (by simp [hp]))
  exact { h with
    cursorValid := h.next_valid
    memCanonical := Memory.write_wf _ _ h.memCanonical
    memInside := Memory.write_inside _ h.memInside (toFlat_lt h.cursorValid)
    faultRecord := by simp [Machine.filled, h.fault_none (by simp [hp])]
    fillCount := hlt
    loading := fun _ => ⟨hnext, hds, hrs, hout⟩
    waiting := by simp [Machine.filled, h.not_waiting hrun] }

/-- `run()` entry keeps the invariant. -/
theorem Legal.started (h : Legal s) : Legal (startRunning (setPc Address.origin s)) :=
  { h with
    cursorValid := h.origin_valid
    runningPhase := by simp
    faultPhase := by simp
    faultRecord := by simp
    loading := by simp
    waiting := by simp }

/-- A supplied token keeps the invariant. -/
theorem Legal.supplied (h : Legal s) (token : Str) : Legal (supplyToken token s) := by
  by_cases ht : isToken token = true
  · rw [supplyToken_of_isToken s ht]
    refine { h with tokens := fun x hx => ?_ }
    rcases List.mem_append.mp hx with hx | hx
    · exact h.tokens x hx
    · rwa [List.mem_singleton.mp hx]
  · rwa [supplyToken_of_not_isToken s ht]

/-- Every host call that succeeds keeps the invariant. -/
theorem Legal.called (h : Legal s) {c : HostCall} {t : State} (hc : hostCall c s = .ok t) : Legal t := by
  cases c with
  | fill w =>
    obtain ⟨hp, hcap, rfl⟩ := fillNext_eq_ok_iff.mp hc
    exact h.filled w hp hcap
  | run =>
    obtain ⟨-, rfl⟩ := runEntry_eq_ok_iff.mp hc
    exact h.started
  | token token =>
    cases hc
    exact h.supplied token

end

theorem legal_of_construct {n : BitVec 8} {d r : Capacity} {s : State} (h : construct n d r = .ok s) : Legal s := by
  obtain ⟨hn, rfl⟩ := construct_eq_ok_iff.mp h
  exact legal_constructed d r hn

/-- Settles O42, by induction on how the state was reached. -/
theorem reachableStatesAreLegal : Obligations.ReachableStatesAreLegal := by
  unfold Obligations.ReachableStatesAreLegal
  refine ⟨fun n d r s h => legal_of_construct h, fun c s t hl h => hl.called h, fun s hs => ?reached⟩
  case reached =>
    induction hs with
    | constructed h => exact legal_of_construct h
    | stepped _ h ih => exact stepKeepsLegal _ _ ih h
    | called _ h ih => exact ih.called h

end Sys2Proof.Machine
end

section
/-! PROOFS. The 32-bit image, canonical forms as hexadecimal digits, truthiness and word equality (30_encoding.md R69 to
R81). -/

namespace Sys2Proof.Machine

/-! ## Hexadecimal digits -/

/-- The sixteen digits are written differently. -/
theorem hexDigit_inj {m n : Nat} (hm : m < 16) (hn : n < 16) : hexDigit m = hexDigit n ↔ m = n := by
  have hall : ∀ m < 16, ∀ n < 16, (hexDigit m = hexDigit n ↔ m = n) := by decide
  exact hall m hm n hn

/-- N digits show exactly the number modulo 16^N (00_scope.md R12). -/
theorem hexN_eq_iff (k x y : Nat) : hexN k x = hexN k y ↔ x % 16 ^ k = y % 16 ^ k := by
  induction k with
  | zero => simp [hexN, Nat.mod_one]
  | succ k ih =>
    have hx := Nat.mod_lt (x / 16 ^ k) (show 16 > 0 by decide)
    have hy := Nat.mod_lt (y / 16 ^ k) (show 16 > 0 by decide)
    rw [hexN, hexN, List.cons.injEq, hexDigit_inj hx hy, ih, Nat.mod_pow_succ, Nat.mod_pow_succ]
    refine ⟨fun ⟨hd, hr⟩ => by rw [hd, hr], fun h => ?_⟩
    have hrest := congrArg (· % 16 ^ k) h
    simp only [Nat.add_mul_mod_self_left, Nat.mod_mod] at hrest
    rw [hrest, Nat.add_left_cancel_iff] at h
    exact ⟨Nat.eq_of_mul_eq_mul_left (Nat.pow_pos (by decide)) h, hrest⟩

/-- The first digits and the last ones. -/
theorem hexN_add (j k x : Nat) : hexN (j + k) x = hexN j (x / 16 ^ k) ++ hexN k x := by
  induction j with
  | zero => simp [hexN]
  | succ j ih =>
    rw [Nat.succ_add, hexN, hexN, List.cons_append, ih, Nat.div_div_eq_div_mul, ← Nat.pow_add, Nat.add_comm k j]

/-! ## The image -/

/-- The image as a number: its three fields (30_encoding.md R70). -/
theorem image_toNat (op : BitVec 8) (operand : Option (BitVec 16)) :
    (image op operand).toNat = op.toNat * 2 ^ 24 + (operand.getD 0).toNat * 2 ^ 8 := by
  have hu := (operand.getD 0).isLt
  rw [image, BitVec.toNat_append, BitVec.toNat_append, ← Nat.shiftLeft_add_eq_or_of_lt hu,
    ← Nat.shiftLeft_add_eq_or_of_lt (show (0 : BitVec 8).toNat < 2 ^ 8 by decide), Nat.shiftLeft_eq, Nat.shiftLeft_eq,
    show (0 : BitVec 8).toNat = 0 from rfl]
  omega

section
variable (op : BitVec 8) (operand : Option (BitVec 16))

theorem image_opcode : (image op operand).extractLsb' 24 8 = op := by
  have ho := op.isLt
  have hu := (operand.getD 0).isLt
  apply BitVec.eq_of_toNat_eq
  rw [BitVec.extractLsb'_toNat, Nat.shiftRight_eq_div_pow, image_toNat]
  omega

theorem image_operand : (image op operand).extractLsb' 8 16 = operand.getD 0 := by
  have hu := (operand.getD 0).isLt
  apply BitVec.eq_of_toNat_eq
  rw [BitVec.extractLsb'_toNat, Nat.shiftRight_eq_div_pow, image_toNat]
  omega

theorem image_pad : (image op operand).extractLsb' 0 8 = 0 := by
  apply BitVec.eq_of_toNat_eq
  rw [BitVec.extractLsb'_toNat, Nat.shiftRight_eq_div_pow, image_toNat, show (0 : BitVec 8).toNat = 0 from rfl]
  omega

/-- The canonical form of an Instruction is the eight digits of its image (30_encoding.md R73). -/
theorem canon_ins_eq_image : canon (.ins op operand) = '0' :: 'x' :: hexN 8 (image op operand).toNat := by
  have hopcode : hexN 2 op.toNat = hexN 2 ((image op operand).toNat / 16 ^ 6) := by
    rw [hexN_eq_iff, image_toNat]
    omega
  have hoperand : hexN 4 (operand.getD 0).toNat = hexN 4 ((image op operand).toNat / 16 ^ 2) := by
    rw [hexN_eq_iff, image_toNat]
    omega
  have hpad : ['0', '0'] = hexN 2 (image op operand).toNat := by
    rw [show ['0', '0'] = hexN 2 0 by decide, hexN_eq_iff, image_toNat]
    omega
  rw [canon, hopcode, hoperand, hpad, List.append_assoc, ← hexN_add 4 2, ← hexN_add 2 6]

/-- What is read back from an image. -/
theorem wordOfImage_image : wordOfImage (image op operand) =
    .ins op (if requiresOperand op || operand.getD 0 != 0 then some (operand.getD 0) else none) := by
  simp only [wordOfImage, image_opcode, image_operand]

end

/-- Settles O44: the fields and the digits of the image, and what `wordOfImage` takes for a present operand. -/
theorem imageOfInstructionWord : Obligations.ImageOfInstructionWord := by
  unfold Obligations.ImageOfInstructionWord
  refine fun op operand => ⟨image_opcode op operand, image_operand op operand, image_pad op operand,
    canon_ins_eq_image op operand, fun u hu h => ?present, fun ho h => ?absent⟩
  case present =>
    subst hu
    rw [wordOfImage_image, Option.getD_some, if_pos (by simpa using h)]
  case absent =>
    subst ho
    rw [wordOfImage_image, Option.getD_none, if_neg (by simp [h])]

/-! ## Truthiness -/

/-- Settles O47: the digit tested is the opcode's high half, or bits 31:28 of the Literal, or the first digit of a
Text's `14`. -/
theorem truthyPerVariant : Obligations.TruthyPerVariant := by
  unfold Obligations.TruthyPerVariant
  refine ⟨fun op operand => ?ins, fun v => ?lit, fun str => ?txt⟩
  case ins =>
    have hop := op.isLt
    have hdigit : (canon (.ins op operand))[2]? = some (hexDigit (op.toNat / 16 % 16)) := rfl
    rw [truthyIsFirstHexDigit, hdigit, Option.some.injEq, hexDigit_eq_one_iff (Nat.mod_lt _ (by decide))]
    omega
  case lit =>
    have hbits : (v.extractLsb' 28 4).toNat = v.toNat / 2 ^ 28 % 2 ^ 4 := by
      rw [BitVec.extractLsb'_toNat, Nat.shiftRight_eq_div_pow]
    rw [truthy, truthyLit_iff, hbits]
    omega
  case txt => rfl

/-! ## Word equality -/

theorem wordEq_iff (w w' : Word) : wordEq w w' = true ↔ canon w = canon w' := beq_iff_eq

/-- Literals are equal by their low 32 bits (30_encoding.md R75). -/
theorem wordEq_lit_iff (v v' : BitVec 64) :
    wordEq (.lit v) (.lit v') = true ↔ v.toNat % 2 ^ 32 = v'.toNat % 2 ^ 32 := by
  simp only [wordEq_iff, canon, List.cons.injEq, true_and, hexN_eq_iff]
  omega

/-- Settles O49: presence of a zero operand and a Literal's high half do not reach the canonical form, and an
Instruction's is its image's. -/
theorem wordEqualityIsCoarse : Obligations.WordEqualityIsCoarse := by
  unfold Obligations.WordEqualityIsCoarse
  refine ⟨fun op => ⟨(wordEq_iff _ _).mpr rfl, by simp⟩, fun v => ⟨(wordEq_lit_iff _ _).mpr ?highHalf, by simp⟩,
    fun op operand => (wordEq_iff _ _).mpr ?image, fun v v' => (wordEq_lit_iff v v').mp⟩
  case highHalf =>
    rw [BitVec.toNat_add, show (0x100000000 : BitVec 64).toNat = 2 ^ 32 by decide]
    omega
  case image =>
    have hi := (image op operand).isLt
    have hlow : (BitVec.setWidth 64 (image op operand)).toNat % 2 ^ 32 = (image op operand).toNat := by
      rw [BitVec.toNat_setWidth]
      omega
    rw [canon_ins_eq_image, canon, hlow]

end Sys2Proof.Machine
end

section
/-! PROOFS. Addresses as flat numbers, and memory as data (20_memory.md R45 to R52, 40_fetch_decode_execute.md R112). -/

namespace Sys2Proof.Machine

/-! ## Flat numbers -/

theorem flatAddress_offset_lt (n : Nat) : (flatAddress n).offset.toNat < 1024 := by
  simp only [flatAddress, Config.segmentSize, BitVec.toNat_ofNat]
  omega

theorem toFlat_flatAddress {n : Nat} (h : n < 262144) : toFlat (flatAddress n) = n := by
  simp only [toFlat, flatAddress, Config.segmentSize, BitVec.toNat_ofNat]
  omega

theorem fromFlat_of_lt {n : Nat} (h : n < 262144) : fromFlat n = .ok (flatAddress n) := if_pos h

theorem fromFlat_of_ge {n : Nat} (h : 262144 ≤ n) : fromFlat n = .error .outOfBounds := if_neg (Nat.not_lt.mpr h)

/-- Validity in flat terms (20_memory.md R48). -/
theorem valid_flatAddress_iff {segments n : Nat} (hs : segments ≤ Config.maxSegments) (h : n < 262144) :
    valid segments (flatAddress n) ↔ n < capacity segments := by
  simp only [valid, flatAddress, capacity, Config.segmentSize, Config.maxSegments, BitVec.toNat_ofNat] at *
  omega

/-- Settles O52: an address with its offset inside a segment and its flat number determine each other. -/
theorem flatConversionLaws : Obligations.FlatConversionLaws := by
  unfold Obligations.FlatConversionLaws
  refine ⟨fun a ha => ?back, fun n h => ⟨_, fromFlat_of_lt h, toFlat_flatAddress h, fun _ hs =>
    valid_flatAddress_iff hs h⟩, fun n h => fromFlat_of_ge h⟩
  case back =>
    have hlt : toFlat a < 262144 := by
      have hs := a.segment.isLt
      simp only [toFlat, Config.segmentSize]
      omega
    have hback : flatAddress (toFlat a) = a := toFlat_inj (flatAddress_offset_lt (toFlat a)) ha (toFlat_flatAddress hlt)
    rw [fromFlat_of_lt hlt, hback]

/-- Counting on from a valid address (40_fetch_decode_execute.md R112). -/
theorem increment_iterate {n : Nat} {a : Address} (hn : n ≤ Config.maxSegments) (h : valid n a) (k : Nat) :
    valid n ((increment n)^[k] a) ∧ toFlat ((increment n)^[k] a) = (toFlat a + k) % capacity n := by
  induction k with
  | zero =>
    rw [Function.iterate_zero_apply, Nat.add_zero, Nat.mod_eq_of_lt (toFlat_lt h)]
    exact ⟨h, rfl⟩
  | succ k ih =>
    obtain ⟨hv, hf⟩ := ih
    rw [Function.iterate_succ_apply']
    exact ⟨increment_valid hv, by rw [toFlat_increment_mod hn hv, hf, Nat.mod_add_mod, Nat.add_assoc]⟩

/-- Settles O51: CAPACITY steps of counting modulo CAPACITY come back to the same flat number, so to the same
address. -/
theorem incrementIsFlatSuccessor : Obligations.IncrementIsFlatSuccessor := by
  unfold Obligations.IncrementIsFlatSuccessor
  intro n a _ hn hv
  obtain ⟨hv', hf⟩ := increment_iterate hn hv (capacity n)
  rw [Nat.add_mod_right, Nat.mod_eq_of_lt (toFlat_lt hv)] at hf
  exact ⟨toFlat_increment_mod hn hv, toFlat_inj hv'.2 hv.2 hf⟩

/-! ## Canonical memories -/

/-- Below every listed cell memory is blank (20_memory.md R52). -/
theorem Memory.read_of_lt {m : Memory} {k : Nat} (h : ∀ e ∈ m, k < e.1) : m.read k = blankCell := by
  induction m with
  | nil => rfl
  | cons e m ih =>
    have hk := h e List.mem_cons_self
    rw [Memory.read, if_neg (by omega)]
    exact ih fun x hx => h x (List.mem_cons_of_mem _ hx)

theorem Memory.read_cons_self (e : Nat × Word) (m : Memory) : Memory.read (e :: m) e.1 = e.2 := if_pos rfl

theorem Memory.read_cons_of_ne {e : Nat × Word} {k : Nat} (m : Memory) (h : e.1 ≠ k) :
    Memory.read (e :: m) k = m.read k := if_neg h

/-- A canonical memory's first cell is not blank and lies below the rest, which is canonical. -/
theorem Memory.wf_cons {e : Nat × Word} {m : Memory} (h : Memory.wf (e :: m)) :
    e.2 ≠ blankCell ∧ (∀ x ∈ m, e.1 < x.1) ∧ Memory.wf m := by
  obtain ⟨hp, hb⟩ := h
  obtain ⟨hlt, hp⟩ := List.pairwise_cons.mp hp
  exact ⟨hb e List.mem_cons_self, hlt, hp, fun x hx => hb x (List.mem_cons_of_mem _ hx)⟩

/-- A memory that reads as a canonical one lists no cell before that one's first. -/
theorem Memory.first_le {e e' : Nat × Word} {m m' : Memory} (h : Memory.wf (e :: m)) (h' : Memory.wf (e' :: m'))
    (hread : Memory.read (e :: m) e.1 = Memory.read (e' :: m') e.1) : e'.1 ≤ e.1 := by
  obtain ⟨hb, -, -⟩ := Memory.wf_cons h
  obtain ⟨-, hlt', -⟩ := Memory.wf_cons h'
  by_contra hlt
  rw [Memory.read_cons_self, Memory.read_of_lt (m := e' :: m') fun x hx => ?_] at hread
  · exact hb hread
  · rcases List.mem_cons.mp hx with rfl | hx
    · omega
    · have := hlt' x hx
      omega

/-- A memory that reads blank everywhere and is canonical lists nothing. -/
theorem Memory.eq_nil_of_read {m : Memory} (h : m.wf) (hread : ∀ k, m.read k = blankCell) : m = [] := by
  cases m with
  | nil => rfl
  | cons e m => exact absurd ((Memory.read_cons_self e m).symm.trans (hread e.1)) (Memory.wf_cons h).1

/-- Settles O54, by induction on the list: the first cells have the same number, since neither lies below the other, and
the same Word, and without them the rests read alike. -/
theorem canonicalMemoriesWithEqualReadsAreEqual : Obligations.CanonicalMemoriesWithEqualReadsAreEqual := by
  unfold Obligations.CanonicalMemoriesWithEqualReadsAreEqual
  intro m
  induction m with
  | nil => exact fun m' _ h' hread => (Memory.eq_nil_of_read h' fun k => (hread k).symm).symm
  | cons e m ih =>
    intro m' h h' hread
    cases m' with
    | nil => exact Memory.eq_nil_of_read h hread
    | cons e' m' =>
      have hkey : e.1 = e'.1 :=
        Nat.le_antisymm (Memory.first_le h' h (hread e'.1).symm) (Memory.first_le h h' (hread e.1))
      have hword : e.2 = e'.2 := by
        rw [← Memory.read_cons_self e m, hread, hkey, Memory.read_cons_self]
      obtain ⟨-, hlt, hm⟩ := Memory.wf_cons h
      obtain ⟨-, hlt', hm'⟩ := Memory.wf_cons h'
      have hrest : m = m' := ih m' hm hm' fun k => by
        by_cases hk : e.1 = k
        · subst hk
          rw [Memory.read_of_lt hlt, hkey, Memory.read_of_lt hlt']
        · rw [← Memory.read_cons_of_ne m hk, hread, Memory.read_cons_of_ne m' (hkey ▸ hk)]
      rw [Prod.ext hkey hword, hrest]

end Sys2Proof.Machine
end

section
/-! PROOFS. The loader: word k at flat cell k (20_memory.md R60, 70_reset_and_hazards.md R190). -/

namespace Sys2Proof.Machine

/-- A loading engine into which exactly `words` have been loaded. -/
def Loaded (words : List Word) (s : State) : Prop :=
  s.phase = .loading ∧ s.fillCnt = words.length ∧ ∀ k, s.mem.read k = words.getD k blankCell

/-- A new engine has nothing loaded. -/
theorem loaded_constructed (n : Nat) (d r : Capacity) : Loaded [] (State.constructed n d r) :=
  ⟨rfl, rfl, constructed_mem_read n d r⟩

/-- `fill_next` loads one more word (20_memory.md R59). -/
theorem Loaded.filled {words : List Word} {s : State} (hl : Legal s) (h : Loaded words s) (w : Word)
    (hc : s.fillCnt ≠ capacity s.segCount) : Loaded (words ++ [w]) (filled w s) := by
  obtain ⟨hp, hn, hread⟩ := h
  obtain ⟨-, hpc⟩ := hl.toFlat_pc_of_loading hp hc
  refine ⟨hp, by simp [Machine.filled, hn], fun k => ?_⟩
  show (s.mem.write (toFlat s.pc) w).read k = _
  rw [hpc, hn]
  by_cases hk : k = words.length
  · rw [hk, Memory.read_write_same _ _ _ hl.memCanonical]
    simp
  · rw [Memory.read_write_ne _ _ _ _ hk, hread, List.getD_eq_getElem?_getD, List.getD_eq_getElem?_getD]
    rcases Nat.lt_or_gt_of_ne hk with hlt | hgt
    · rw [List.getElem?_append_left hlt]
    · rw [List.getElem?_eq_none hgt.le, List.getElem?_eq_none (by simp; omega)]

theorem load_cons {w : Word} {s t : State} (rest : List Word) (h : fillNext w s = .ok t) :
    load (w :: rest) s = load rest t := by
  rw [load, h]

/-- Loading what fits succeeds, word by word. -/
theorem load_of_fits (rest : List Word) : ∀ (words : List Word) (s : State), Legal s → Loaded words s →
    words.length + rest.length ≤ capacity s.segCount →
    ∃ t, load rest s = .ok t ∧ t.segCount = s.segCount ∧ Loaded (words ++ rest) t := by
  induction rest with
  | nil => exact fun words s _ h _ => ⟨s, rfl, rfl, by rwa [List.append_nil]⟩
  | cons w rest ih =>
    intro words s hl h hfit
    rw [List.length_cons] at hfit
    have ⟨hp, hn, _⟩ := h
    have hc : s.fillCnt ≠ capacity s.segCount := by omega
    obtain ⟨t, ht, hseg, hloaded⟩ := ih (words ++ [w]) (filled w s) (hl.filled w hp hc) (Loaded.filled hl h w hc)
      (by rw [List.length_append, List.length_singleton]; show _ ≤ capacity s.segCount; omega)
    refine ⟨t, (load_cons rest (fillNext_ok w hp hc)).trans ht, hseg, ?_⟩
    rwa [List.append_assoc, List.singleton_append] at hloaded

/-- Loading more than fits is refused (20_memory.md R59, decision D18). -/
theorem load_of_too_long (rest : List Word) : ∀ (words : List Word) (s : State), Legal s → Loaded words s →
    capacity s.segCount < words.length + rest.length → load rest s = .error .outOfBounds := by
  induction rest with
  | nil =>
    intro words s hl h hlong
    have := hl.fillCount
    rw [h.2.1] at this
    rw [List.length_nil] at hlong
    omega
  | cons w rest ih =>
    intro words s hl h hlong
    rw [List.length_cons] at hlong
    have ⟨hp, hn, _⟩ := h
    by_cases hc : s.fillCnt = capacity s.segCount
    · rw [load, fillNext_full w hp hc]
    · rw [load_cons rest (fillNext_ok w hp hc)]
      refine ih (words ++ [w]) _ (hl.filled w hp hc) (Loaded.filled hl h w hc) ?_
      rw [List.length_append, List.length_singleton]
      show capacity s.segCount < _
      omega

/-- Settles O57: from a new engine, which has nothing loaded, the loader loads the program or is refused; a program that
is loaded is read word by word at its flat numbers. -/
theorem loaderPlacesWordKAtFlatK : Obligations.LoaderPlacesWordKAtFlatK := by
  unfold Obligations.LoaderPlacesWordKAtFlatK
  intro n d r s program hs
  have hl := legal_of_construct hs
  obtain ⟨hn, rfl⟩ := construct_eq_ok_iff.mp hs
  have hnew := loaded_constructed n.toNat d r
  refine ⟨fun hfit => ?fits, fun hlong => ?tooLong⟩
  case fits =>
    obtain ⟨t, ht, hseg, hp, hcount, hread⟩ := load_of_fits program [] _ hl hnew ((Nat.zero_add _).trans_le hfit)
    refine ⟨t, ht, hcount, hp, fun k hk => ⟨flatAddress k, ?_⟩⟩
    have hk' : k < 262144 := by
      have := hn.2
      simp only [capacity, Config.segmentSize, Config.maxSegments] at *
      omega
    refine ⟨fromFlat_of_lt hk', ?_⟩
    have hseg' : t.segCount = n.toNat := hseg
    rw [memRead_ok (by rw [hseg']; exact (valid_flatAddress_iff hn.2 hk').mpr hk), toFlat_flatAddress hk', hread]
    rfl
  case tooLong => exact load_of_too_long program [] _ hl hnew (hlong.trans_eq (Nat.zero_add _).symm)

end Sys2Proof.Machine
end

section
/-! PROOFS. The assembler boundary: the Opcode Table and address literals (30_encoding.md R97 to R103). -/

namespace Sys2Proof.Machine

/-! ## The Opcode Table -/

/-- No two entries have one mnemonic (30_encoding.md R98, R100). -/
theorem opcodeTable_nodup : (opcodeTable.map OpcodeEntry.mnemonic).Nodup := by decide

/-- A lookup finds exactly the entry of the mnemonic. -/
theorem lookupMnemonic_eq_ok_iff {m : Str} {e : OpcodeEntry} :
    lookupMnemonic m = .ok e ↔ e ∈ opcodeTable ∧ e.mnemonic = m := by
  unfold lookupMnemonic
  cases hf : opcodeTable.find? (fun e => e.mnemonic == m) with
  | none =>
    have hno := List.find?_eq_none.mp hf
    refine ⟨nofun, fun ⟨he, hm⟩ => absurd (beq_iff_eq.mpr hm) (hno e he)⟩
  | some e' =>
    have hmem' := List.mem_of_find?_eq_some hf
    have hm' : e'.mnemonic = m := by simpa using List.find?_some hf
    rw [Except.ok.injEq]
    constructor
    · rintro rfl
      exact ⟨hmem', hm'⟩
    · exact fun ⟨he, hm⟩ => List.inj_on_of_nodup_map opcodeTable_nodup hmem' he (hm'.trans hm.symm)

/-- A lookup that finds nothing says so. -/
theorem lookupMnemonic_error {m : Str} {x : HostError} (h : lookupMnemonic m = .error x) : x = .unknownMnemonic := by
  unfold lookupMnemonic at h
  split at h <;> cases h
  rfl

theorem opcodeOf_eq_ok_iff {m : Str} {op : BitVec 8} :
    opcodeOf m = .ok op ↔ ∃ e ∈ opcodeTable, e.mnemonic = m ∧ e.opcode = op := by
  unfold opcodeOf
  cases hl : lookupMnemonic m with
  | ok e =>
    obtain ⟨he, hm⟩ := lookupMnemonic_eq_ok_iff.mp hl
    rw [Except.ok.injEq]
    refine ⟨fun h => ⟨e, he, hm, h⟩, fun ⟨e', he', hm', hop⟩ => ?_⟩
    cases hl.symm.trans (lookupMnemonic_eq_ok_iff.mpr ⟨he', hm'⟩)
    exact hop
  | error x =>
    refine ⟨nofun, fun ⟨e', he', hm', _⟩ => ?_⟩
    cases hl.symm.trans (lookupMnemonic_eq_ok_iff.mpr ⟨he', hm'⟩)

/-- The operand counts of the table (30_encoding.md R99, decision D30). -/
theorem operandCount_of_mem : ∀ e ∈ opcodeTable, e.operandCount = if requiresOperand e.opcode then 1 else 0 := by
  decide

/-- The opcodes of the table (30_encoding.md R97, decision D9). -/
theorem exists_entry_iff (op : BitVec 8) : (∃ e ∈ opcodeTable, e.opcode = op) ↔ op.toNat ≤ 0x15 ∧ op ≠ 0x14 := by
  decide +revert

/-- Settles O60: a lookup is membership in the table, whose rows are those of the statement. -/
theorem opcodeTableAgreesWithTheMap : Obligations.OpcodeTableAgreesWithTheMap := by
  unfold Obligations.OpcodeTableAgreesWithTheMap
  refine ⟨fun m op => ?rows, fun op => ?opcodes, fun m op h => ?counts, fun m h => ?unknown⟩
  case rows =>
    calc opcodeOf m = .ok op
        ↔ ∃ e ∈ opcodeTable, e.mnemonic = m ∧ e.opcode = op := opcodeOf_eq_ok_iff
      _ ↔ (m, op) ∈ opcodeTable.map fun e => (e.mnemonic, e.opcode) := by simp only [List.mem_map, Prod.mk.injEq]
      _ ↔ _ := Iff.rfl
  case opcodes =>
    rw [← exists_entry_iff]
    refine ⟨fun ⟨m, h⟩ => ?_, fun ⟨e, he, hop⟩ => ⟨e.mnemonic, opcodeOf_eq_ok_iff.mpr ⟨e, he, rfl, hop⟩⟩⟩
    obtain ⟨e, he, -, hop⟩ := opcodeOf_eq_ok_iff.mp h
    exact ⟨e, he, hop⟩
  case counts =>
    obtain ⟨e, he, hm, rfl⟩ := opcodeOf_eq_ok_iff.mp h
    rw [requiredOperandCount, lookupMnemonic_eq_ok_iff.mpr ⟨he, hm⟩, ← operandCount_of_mem e he]
  case unknown =>
    cases hl : lookupMnemonic m with
    | ok e => exact absurd (by rw [opcodeOf, hl]) (h e.opcode)
    | error x =>
      cases lookupMnemonic_error hl
      exact ⟨by rw [opcodeOf, hl], by rw [requiredOperandCount, hl]⟩

/-! ## Hexadecimal values -/

theorem hexDigitValue_lt {c : Char} {d : Nat} (h : hexDigitValue c = some d) : d < 16 := by
  unfold hexDigitValue at h
  split_ifs at h <;> cases h <;> omega

theorem hexValueFrom_cons {c : Char} {d : Nat} (n : Nat) (cs : Str) (h : hexDigitValue c = some d) :
    hexValueFrom n (c :: cs) = hexValueFrom (16 * n + d) cs := by
  rw [hexValueFrom, h]

theorem hexValueFrom_cons_none {c : Char} (n : Nat) (cs : Str) (h : hexDigitValue c = none) :
    hexValueFrom n (c :: cs) = none := by
  rw [hexValueFrom, h]

/-- Digits already read stand in front of the others. -/
theorem hexValueFrom_eq_map (n : Nat) (cs : Str) :
    hexValueFrom n cs = (hexValueFrom 0 cs).map (n * 16 ^ cs.length + ·) := by
  induction cs generalizing n with
  | nil => simp [hexValueFrom]
  | cons c cs ih =>
    cases hc : hexDigitValue c with
    | none => rw [hexValueFrom_cons_none n cs hc, hexValueFrom_cons_none 0 cs hc, Option.map_none]
    | some d =>
      rw [hexValueFrom_cons n cs hc, hexValueFrom_cons 0 cs hc, ih, ih (16 * 0 + d), Option.map_map]
      congr 1
      funext w
      rw [Function.comp_apply, List.length_cons, pow_succ]
      ring

/-- The value of k digits is below 16^k. -/
theorem hexValueFrom_lt {cs : Str} {v : Nat} (h : hexValueFrom 0 cs = some v) : v < 16 ^ cs.length := by
  induction cs generalizing v with
  | nil =>
    cases h
    exact Nat.one_pos
  | cons c cs ih =>
    cases hc : hexDigitValue c with
    | none => rw [hexValueFrom_cons_none 0 cs hc] at h; cases h
    | some d =>
      rw [hexValueFrom_cons 0 cs hc, hexValueFrom_eq_map] at h
      obtain ⟨w, hw, rfl⟩ := Option.map_eq_some_iff.mp h
      have hd := hexDigitValue_lt hc
      have hw := ih hw
      rw [List.length_cons, pow_succ]
      calc (16 * 0 + d) * 16 ^ cs.length + w
          < (16 * 0 + d) * 16 ^ cs.length + 16 ^ cs.length := Nat.add_lt_add_left hw _
        _ = (d + 1) * 16 ^ cs.length := by ring
        _ ≤ 16 * 16 ^ cs.length := Nat.mul_le_mul_right _ hd
        _ = 16 ^ cs.length * 16 := Nat.mul_comm _ _

/-- Another character anywhere leaves no value. -/
theorem hexValueFrom_eq_none {cs : Str} {c : Char} (hc : c ∈ cs) (h : hexDigitValue c = none) (n : Nat) :
    hexValueFrom n cs = none := by
  induction cs generalizing n with
  | nil => cases hc
  | cons c' cs ih =>
    cases hd : hexDigitValue c' with
    | none => exact hexValueFrom_cons_none n cs hd
    | some d =>
      rw [hexValueFrom_cons n cs hd]
      rcases List.mem_cons.mp hc with rfl | hc
      · rw [h] at hd
        cases hd
      · exact ih hc _

/-! ## Address literals -/

theorem literalAddress_of_le (segment : Nat) {offset : Nat} (h : offset ≤ 0xFFFF) :
    literalAddress segment offset = .ok ⟨BitVec.ofNat 8 segment, BitVec.ofNat 16 offset⟩ := if_pos h

/-- Packing puts the segment in front of the offset (30_encoding.md R103). -/
theorem packAddress_of_lt {segment offset : Nat} (hs : segment < 16) (ho : offset < 4096) :
    packAddress ⟨BitVec.ofNat 8 segment, BitVec.ofNat 16 offset⟩ = .ok (BitVec.ofNat 16 (segment * 4096 + offset)) := by
  have hs' : (BitVec.ofNat 8 segment).toNat = segment := by rw [BitVec.toNat_ofNat]; omega
  have ho' : (BitVec.ofNat 16 offset).toNat = offset := by rw [BitVec.toNat_ofNat]; omega
  rw [packAddress, hs', ho', if_pos ⟨by omega, by omega⟩]

/-- What packs is named by its operand (30_encoding.md R76, R103). -/
theorem opaddr_of_packAddress {a : Address} {u : BitVec 16} (h : packAddress a = .ok u) : opaddr u = a := by
  unfold packAddress at h
  split_ifs at h with hfits
  cases h
  obtain ⟨ho, hs⟩ := hfits
  show _ = (⟨a.segment, a.offset⟩ : Address)
  rw [opaddr, Address.mk.injEq]
  constructor
  all_goals
    apply BitVec.eq_of_toNat_eq
    rw [BitVec.toNat_setWidth, BitVec.extractLsb'_toNat, Nat.shiftRight_eq_div_pow, BitVec.toNat_ofNat]
    omega

/-- A short literal is an offset (30_encoding.md R101). -/
theorem parseAddressLiteral_short {c : Char} {cs : Str} (h : ¬ 3 < (c :: cs).length) {v : Nat}
    (hv : hexValueFrom 0 (c :: cs) = some v) : parseAddressLiteral (c :: cs) = literalAddress 0 v := by
  rw [parseAddressLiteral, if_neg h, hv]

/-- In a longer one the first digit is the segment (30_encoding.md R101). -/
theorem parseAddressLiteral_long {c : Char} {cs : Str} (h : 3 < (c :: cs).length) {d v : Nat}
    (hd : hexDigitValue c = some d) (hv : hexValueFrom 0 cs = some v) :
    parseAddressLiteral (c :: cs) = literalAddress d v := by
  rw [parseAddressLiteral, if_pos h, hd, hv]

/-- Another character anywhere makes a literal malformed (30_encoding.md R102). -/
theorem parseAddressLiteral_malformed {str : Str} {c : Char} (hc : c ∈ str) (h : hexDigitValue c = none) :
    parseAddressLiteral str = .error .malformedAddress := by
  cases str with
  | nil => cases hc
  | cons c' cs =>
    by_cases hlen : 3 < (c' :: cs).length
    · rw [parseAddressLiteral, if_pos hlen]
      rcases List.mem_cons.mp hc with rfl | hc
      · rw [h]
      · rw [hexValueFrom_eq_none hc h]
        cases hexDigitValue c' <;> rfl
    · rw [parseAddressLiteral, if_neg hlen, hexValueFrom_eq_none hc h]

/-- Settles O59: packing is undone by `opaddr`; up to three digits are an offset below 4096, and a fourth one before
them is the segment, with the weight that packing gives it. -/
theorem addressLiteralPacksToOperand : Obligations.AddressLiteralPacksToOperand := by
  unfold Obligations.AddressLiteralPacksToOperand
  refine ⟨fun str a u _ hp => opaddr_of_packAddress hp, fun str n h1 h4 hn => ?packs, fun str h => ?malformed⟩
  case packs =>
    match str with
    | [] => cases h1
    | c :: cs =>
      by_cases hlen : 3 < (c :: cs).length
      · have hcs : cs.length = 3 := by rw [List.length_cons] at h4 hlen; omega
        cases hd : hexDigitValue c with
        | none => rw [hexValueFrom_cons_none 0 cs hd] at hn; cases hn
        | some d =>
          rw [hexValueFrom_cons 0 cs hd, hexValueFrom_eq_map, hcs] at hn
          obtain ⟨w, hw, rfl⟩ := Option.map_eq_some_iff.mp hn
          have hlt : w < 4096 := by simpa [hcs] using hexValueFrom_lt hw
          refine ⟨_, (parseAddressLiteral_long hlen hd hw).trans (literalAddress_of_le d (by omega)), ?_⟩
          rw [packAddress_of_lt (hexDigitValue_lt hd) hlt]
          norm_num
      · have hlt : n < 4096 :=
          calc n < 16 ^ (c :: cs).length := hexValueFrom_lt hn
            _ ≤ 16 ^ 3 := Nat.pow_le_pow_right (by decide) (Nat.not_lt.mp hlen)
        refine ⟨_, (parseAddressLiteral_short hlen hn).trans (literalAddress_of_le 0 (by omega)), ?_⟩
        rw [packAddress_of_lt (by decide) hlt, Nat.zero_mul, Nat.zero_add]
  case malformed =>
    rcases h with rfl | ⟨c, hc, hd⟩
    · rfl
    · exact parseAddressLiteral_malformed hc hd

end Sys2Proof.Machine
end

section
/-! PROOFS. Decimal renderings and the conversion of tokens (46_io.md R154 to R158). -/

namespace Sys2Proof.Machine

/-! ## Decimal digits -/

/-- A decimal digit is one of the characters from `0` to `9`. -/
theorem isDecimalDigit_iff (c : Char) : isDecimalDigit c = true ↔ '0' ≤ c ∧ c ≤ '9' :=
  decide_eq_true_iff

/-- A non-empty string of decimal digits, the tokens that `[0-9]+` matches (46_io.md R158). -/
def IsDigits (ds : Str) : Prop := ds ≠ [] ∧ ∀ c ∈ ds, isDecimalDigit c = true

/-- The test that `integerOfToken` makes. -/
theorem isDigits_iff (ds : Str) : (!ds.isEmpty && ds.all isDecimalDigit) = true ↔ IsDigits ds := by
  simp [IsDigits]

/-- The value of a string of digits in Mathlib's terms. -/
theorem decimalValue_eq_ofDigits (ds : Str) :
    decimalValue ds = Nat.ofDigits 10 (ds.map fun c => c.toNat - '0'.toNat).reverse := by
  induction ds using List.reverseRecOn with
  | nil => rfl
  | append_singleton ds c ih =>
    rw [List.map_append, List.reverse_append, List.map_singleton, List.reverse_singleton, List.singleton_append,
      Nat.ofDigits_cons, ← ih, decimalValue, List.foldl_append, Nat.add_comm]
    rfl

theorem decimalValue_append_singleton (ds : Str) (c : Char) :
    decimalValue (ds ++ [c]) = 10 * decimalValue ds + (c.toNat - 48) := by
  rw [decimalValue, List.foldl_append]
  rfl

/-- What is asked of the decimal rendering of a number: digits with its value, and a leading `0` for 0 only
(46_io.md R156). -/
structure DigitsOf (n : Nat) (ds : Str) : Prop where
  digits : IsDigits ds
  value : decimalValue ds = n
  leading : ds.head? = some '0' ↔ n = 0

theorem digitsOf_singleton {n : Nat} (h : n < 10) : DigitsOf n [hexDigit n] where
  digits := ⟨by simp, by
    have hall : ∀ n < 10, isDecimalDigit (hexDigit n) = true := by decide
    simpa using hall n h⟩
  value := by
    have hall : ∀ n < 10, decimalValue [hexDigit n] = n := by decide
    exact hall n h
  leading := by
    have hall : ∀ n < 10, ([hexDigit n].head? = some '0' ↔ n = 0) := by decide
    exact hall n h

/-- One more digit at the end. -/
theorem DigitsOf.append_digit {n : Nat} {ds : Str} (h : DigitsOf (n / 10) ds) (hn : 10 ≤ n) :
    DigitsOf n (ds ++ [hexDigit (n % 10)]) := by
  obtain ⟨⟨hne, hall⟩, hvalue, hleading⟩ := h
  obtain ⟨⟨-, hlast⟩, hlastValue, -⟩ := digitsOf_singleton (Nat.mod_lt n (show 0 < 10 by decide))
  refine ⟨⟨by simp, fun c hc => ?_⟩, ?_, ?_⟩
  · exact (List.mem_append.mp hc).elim (hall c) (hlast c)
  · have hd : (hexDigit (n % 10)).toNat - 48 = n % 10 := (Nat.zero_add _).symm.trans hlastValue
    rw [decimalValue_append_singleton, hvalue, hd]
    omega
  · rw [List.head?_append_of_ne_nil _ hne, hleading]
    omega

/-- The digits in front of an accumulator are those without one. -/
theorem decimalDigits_append (fuel n : Nat) (acc : Str) :
    decimalDigits fuel n acc = decimalDigits fuel n [] ++ acc := by
  induction fuel generalizing n acc with
  | zero => rfl
  | succ fuel ih =>
    rw [decimalDigits, decimalDigits]
    split
    · rfl
    · rw [ih (n / 10) (_ :: acc), ih (n / 10) [_], List.append_assoc, List.singleton_append]

/-- With fuel for its digits a number is rendered as asked. -/
theorem digitsOf_decimalDigits (fuel : Nat) : ∀ n < 10 ^ (fuel + 1), DigitsOf n (decimalDigits (fuel + 1) n []) := by
  induction fuel with
  | zero =>
    intro n hn
    rw [decimalDigits, if_pos (by omega)]
    exact digitsOf_singleton (by omega)
  | succ fuel ih =>
    intro n hn
    rw [decimalDigits]
    split
    next hlt => exact digitsOf_singleton hlt
    next hge =>
      rw [decimalDigits_append]
      exact (ih (n / 10) (by rw [pow_succ] at hn; omega)).append_digit (by omega)

/-! ## Tokens that name an integer -/

theorem IsDigits.head_ne_minus {ds : Str} (h : IsDigits ds) : ds.head? ≠ some '-' := fun hd => by
  have := h.2 '-' (List.mem_of_mem_head? hd)
  revert this
  decide

theorem integerOfToken_of_digits {ds : Str} (h : IsDigits ds) : integerOfToken ds = some (decimalValue ds : Int) := by
  unfold integerOfToken
  split
  · exact absurd rfl h.head_ne_minus
  · rw [if_pos ((isDigits_iff ds).mpr h)]

theorem integerOfToken_of_minus_digits {ds : Str} (h : IsDigits ds) :
    integerOfToken ('-' :: ds) = some (-(decimalValue ds : Int)) := if_pos ((isDigits_iff ds).mpr h)

/-- Only `-?[0-9]+` names an integer (46_io.md R158). -/
theorem integerOfToken_eq_none {t : Str} (h : ¬ IsDigits t) (hminus : ∀ ds, t = '-' :: ds → ¬ IsDigits ds) :
    integerOfToken t = none := by
  unfold integerOfToken
  split
  next ds => exact if_neg (mt (isDigits_iff ds).mp (hminus ds rfl))
  next => exact if_neg (mt (isDigits_iff t).mp h)

theorem cinConvert_of_none {t : Str} (h : integerOfToken t = none) : cinConvert t = .txt t := by
  rw [cinConvert, h]

theorem cinConvert_of_mem {t : Str} {z : Int} (h : integerOfToken t = some z) (hz : -2 ^ 63 ≤ z ∧ z < 2 ^ 63) :
    cinConvert t = .lit (BitVec.ofInt 64 z) := by
  rw [cinConvert, h]
  exact if_pos hz

theorem cinConvert_of_not_mem {t : Str} {z : Int} (h : integerOfToken t = some z)
    (hz : ¬ (-2 ^ 63 ≤ z ∧ z < 2 ^ 63)) : cinConvert t = .txt t := by
  rw [cinConvert, h]
  exact if_neg hz

/-! ## Literals -/

theorem toInt_mem_range (v : BitVec 64) : -2 ^ 63 ≤ v.toInt ∧ v.toInt < 2 ^ 63 :=
  ⟨BitVec.le_toInt v, BitVec.toInt_lt⟩

/-- A negative Literal is `-` and the digits of its magnitude. -/
theorem decimal_of_neg {v : BitVec 64} (h : v.toInt < 0) :
    ∃ ds, decimal v = '-' :: ds ∧ DigitsOf (-v.toInt).toNat ds := by
  have := toInt_mem_range v
  exact ⟨_, if_pos h, digitsOf_decimalDigits 19 _ (by omega)⟩

/-- Another is its digits. -/
theorem decimal_of_nonneg {v : BitVec 64} (h : ¬ v.toInt < 0) : DigitsOf v.toInt.toNat (decimal v) := by
  have := toInt_mem_range v
  rw [decimal, if_neg h]
  exact digitsOf_decimalDigits 19 _ (by omega)

/-- The rendering of a Literal names its value. -/
theorem integerOfToken_decimal (v : BitVec 64) : integerOfToken (decimal v) = some v.toInt := by
  by_cases h : v.toInt < 0
  · obtain ⟨ds, hds, hdigits⟩ := decimal_of_neg h
    rw [hds, integerOfToken_of_minus_digits hdigits.digits, hdigits.value]
    congr 1
    omega
  · have hdigits := decimal_of_nonneg h
    rw [integerOfToken_of_digits hdigits.digits, hdigits.value]
    congr 1
    omega

/-- A digit is no white space. -/
theorem not_isWhitespace_of_isDecimalDigit {c : Char} (h : isDecimalDigit c = true) : c.isWhitespace = false := by
  rw [Bool.eq_false_iff]
  intro hw
  simp only [Char.isWhitespace, Bool.or_eq_true, decide_eq_true_eq] at hw
  rcases hw with (((rfl | rfl) | rfl) | rfl) <;> exact absurd h (by decide)

theorem IsDigits.all_not_isWhitespace {ds : Str} (h : IsDigits ds) : ds.all (fun c => !c.isWhitespace) = true :=
  List.all_eq_true.mpr fun c hc => by rw [not_isWhitespace_of_isDecimalDigit (h.2 c hc)]; rfl

/-- The rendering of a Literal is a token (46_io.md R154). -/
theorem isToken_decimal (v : BitVec 64) : isToken (decimal v) = true := by
  by_cases h : v.toInt < 0
  · obtain ⟨ds, hds, hdigits⟩ := decimal_of_neg h
    rw [hds, isToken, List.all_cons, hdigits.digits.all_not_isWhitespace]
    rfl
  · obtain ⟨hdigits, -, -⟩ := decimal_of_nonneg h
    rw [isToken, hdigits.all_not_isWhitespace, List.isEmpty_eq_false_iff.mpr hdigits.1]
    rfl

theorem decimal_head_minus_iff (v : BitVec 64) : v.toInt < 0 ↔ (decimal v).head? = some '-' := by
  refine ⟨fun h => ?_, fun h => by_contra fun hnn => (decimal_of_nonneg hnn).digits.head_ne_minus h⟩
  obtain ⟨ds, hds, -⟩ := decimal_of_neg h
  rw [hds, List.head?_cons]

theorem decimal_head_zero_iff (v : BitVec 64) : (decimal v).head? = some '0' ↔ v = 0 := by
  by_cases h : v.toInt < 0
  · obtain ⟨ds, hds, -⟩ := decimal_of_neg h
    rw [hds, List.head?_cons]
    refine iff_of_false (by decide) ?_
    rintro rfl
    exact absurd h (by decide)
  · rw [(decimal_of_nonneg h).leading, ← BitVec.toInt_inj, show (0 : BitVec 64).toInt = 0 by decide]
    omega

/-- Settles O26: the rendering of a Literal is the digits of its magnitude, with `-` before them when it is negative,
and the conversion reads such a token by the value of its digits. -/
theorem renderedLiteralReadsBack : Obligations.RenderedLiteralReadsBack := by
  unfold Obligations.RenderedLiteralReadsBack
  refine ⟨fun v => ⟨?readsBack, isToken_decimal v, decimal_head_minus_iff v, decimal_head_zero_iff v⟩, fun _ => rfl,
    fun _ _ => rfl, fun digits sign t n z hne hall hn hz ht => ?integer, fun t h => ?other⟩
  case readsBack =>
    exact (cinConvert_of_mem (integerOfToken_decimal v) (toInt_mem_range v)).trans (by rw [BitVec.ofInt_toInt])
  case integer =>
    have hdigits : IsDigits digits := ⟨hne, fun c hc => (isDecimalDigit_iff c).mpr (hall c hc)⟩
    rw [← decimalValue_eq_ofDigits] at hn
    have hint : integerOfToken t = some z := by
      rcases hz with ⟨rfl, rfl⟩ | ⟨rfl, rfl⟩ <;> subst ht hn
      · exact integerOfToken_of_digits hdigits
      · exact integerOfToken_of_minus_digits hdigits
    exact ⟨fun h0 h1 => cinConvert_of_mem hint ⟨h0, h1⟩, fun h => cinConvert_of_not_mem hint (by omega)⟩
  case other =>
    have hno : ∀ sign ds, (sign = [] ∨ sign = ['-']) → t = sign ++ ds → ¬ IsDigits ds := fun sign ds hs ht hds =>
      h sign ds hs hds.1 (fun c hc => (isDecimalDigit_iff c).mp (hds.2 c hc)) ht
    exact cinConvert_of_none (integerOfToken_eq_none (hno [] t (.inl rfl) rfl) fun ds => hno ['-'] ds (.inr rfl))

end Sys2Proof.Machine
end
